-- ==== Sys2Proof/Word.lean ====
section
/-! DEFINITION. The words of the machine: bit vectors numbered from N-1 down to 0, bit 0 the least significant
(00_scope.md R8; that bit 0 is the least significant is GK19). -/

namespace Sys2Proof

/-- One byte of the program text (20_memory.md R62). -/
abbrev Byte := BitVec 8

/-- One instruction word (30_encoding.md R70). -/
abbrev Word := BitVec 32

/-- A general register, the program counter or the value of MDCR_EL3 (00_scope.md R9). -/
abbrev DWord := BitVec 64

end Sys2Proof
end

