-- ==== Sys2Proof/Config.lean ====
section
/-! DEFINITION. What is fixed for a machine (`Config`, 00_scope.md R6), what the environment supplies (`Env`, R7), the
abstract accesses both speak of (60_exceptions.md), and the free values (`draw`, R9). -/

namespace Sys2Proof

/-- The four Exception levels, held by name and not by an encoding (10_state.md R42, 60_exceptions.md R117). -/
inductive EL where
  | el0
  | el1
  | el2
  | el3
deriving DecidableEq, Repr

/-- The registers the spec's traps and disables speak of, by the source's names (10_state.md R43). A name and nothing
more: no layout, no encoding, no value. MDCR_EL3 is not among them: its own accesses are the two instructions. -/
inductive RegName where
  | trfcrEl1
  | trfcrEl2
  | trfcrEl12
  | htrfcr
  | trfcr
  | oslarEl1
  | oslsrEl1
  | osdlrEl1
  | dbgprcrEl1
  | dbgoslar
  | dbgoslsr
  | dbgosdlr
  | dbgprcr
  | dbgdtrEl0
  | dbgdtrrxEl0
  | dbgdtrtxEl0
  | dbgdtrrxInt
  | dbgdtrtxInt
  | pmccntrEl0
  | sdcr
  | scrEl3
  | mdscrEl1
  | sder32El3
  | mdcrEl2
  | hdcr
  | dbgdscrExt
  /-- Any register the source does not name; the number only tells them apart. -/
  | other (n : Nat)
deriving DecidableEq, Repr

/-- Read or write, of an abstract access. -/
inductive Dir where
  | read
  | write
deriving DecidableEq, Repr

/-- An abstract access of the PE: `a = { reg, el, secure, aarch64, dir }` (60_exceptions.md, opening). -/
structure Access where
  reg : RegName
  el : EL
  secure : Bool
  aarch64 : Bool
  dir : Dir
deriving DecidableEq, Repr

/-- An access of the external debugger: `x = { reg, nonsecure_access }` (60_exceptions.md R111, R112). -/
structure ExtAccess where
  reg : RegName
  nonsecureAccess : Bool
deriving DecidableEq, Repr

/-- The controls of other registers that may trap an access first (00_scope.md R7, 60_exceptions.md R115). -/
inductive LowerControl where
  | hdcrTdosa
  | mdcrEl2Tdosa
  | dbgdscrExtUdccdis
  | mdscrEl1Tdcc
  | hdcrTda
  | mdcrEl2Tda
  | hdcrTpm
  | mdcrEl2Tpm
deriving DecidableEq, Repr

/-- The fields of MDCR_EL3 that trap accesses to EL3 (60_exceptions.md R102 to R106). -/
inductive Control where
  | ttrf
  | nspb
  | tdosa
  | tda
  | tpm
deriving DecidableEq, Repr

/-- The configuration record `Config` of 00_scope.md R6. Every combination of the members is a machine; no
implication between them is assumed (N29). The last four members are the register sets the source never lists, which
91_not_in_source.md N20 makes parameters (log 27). -/
structure Config where
  haveEl3 : Bool
  haveEl2 : Bool
  havePmuv3 : Bool
  havePmuv8p5 : Bool
  haveDebugv8p2 : Bool
  haveDebugv8p4 : Bool
  haveTracev8p4 : Bool
  haveSpe : Bool
  haveDoublelock : Bool
  haveAarch32El1 : Bool
  pmuExtDebugIf : Bool
  sdcrMapped : Bool
  edadCoversOslar : Bool
  tdosaTrapsOsdlr : Bool
  tdosaImpdefRegs : List RegName
  resetEl : EL
  resetPc : DWord
  debugRegs : List RegName
  pmuRegs : List RegName
  speCtrl : List RegName
  bpwpRegs : List RegName
deriving DecidableEq, Repr

/-- The environment `Env` of 00_scope.md R7: inputs that may change between any two steps and that no rule writes.
`lowerTraps` is `TrappedByLowerControl`, one entry per control that traps an access (log 19). -/
structure Env where
  secureState : Bool
  scrEl3NsEff : BitVec 1
  scrEl3RwEff : BitVec 1
  mdscrEl1Kde : BitVec 1
  pstateD : BitVec 1
  sder32El3Suiden : BitVec 1
  secureEl1IsAarch32 : Bool
  inDebugState : Bool
  externalSecureNoninvasiveDebugEnabled : Bool
  authOverride : Bool
  authEnablesSecureEl1Debug : Bool
  traceOverriddenByExternalDebugger : Bool
  traceProhibitedByTrfcr : Bool
  lowerTraps : List (LowerControl × Access)
deriving DecidableEq, Repr

/-- The free choices of ONE evaluation of a behaviour rule: which of the images current since the last context
synchronisation event it uses (70_reset_and_hazards.md R145), the value of a `draw` (10_state.md R45), and the answer
where the spec admits both (60_exceptions.md R105, R107). A claim holds for every choice (log 18). -/
structure Choice where
  image : Nat
  bits : BitVec 2
  answer : Bool
deriving DecidableEq, Repr

/-- `draw` (00_scope.md R9): the n-th value drawn. Nothing constrains it (log 7). -/
opaque Config.freeBits : Nat → DWord

/-- The configuration FULL of 95_test_vectors.md with the reset entry of log 2: EL3, address 0. -/
def Config.full : Config where
  haveEl3 := true
  haveEl2 := true
  havePmuv3 := true
  havePmuv8p5 := true
  haveDebugv8p2 := true
  haveDebugv8p4 := true
  haveTracev8p4 := true
  haveSpe := true
  haveDoublelock := true
  haveAarch32El1 := true
  pmuExtDebugIf := true
  sdcrMapped := true
  edadCoversOslar := true
  tdosaTrapsOsdlr := true
  tdosaImpdefRegs := []
  resetEl := .el3
  resetPc := 0
  debugRegs := []
  pmuRegs := []
  speCtrl := []
  bpwpRegs := []

/-- The configuration MIN of 95_test_vectors.md: EL3 and no option. -/
def Config.minimal : Config where
  haveEl3 := true
  haveEl2 := false
  havePmuv3 := false
  havePmuv8p5 := false
  haveDebugv8p2 := false
  haveDebugv8p4 := false
  haveTracev8p4 := false
  haveSpe := false
  haveDoublelock := false
  haveAarch32El1 := false
  pmuExtDebugIf := false
  sdcrMapped := false
  edadCoversOslar := false
  tdosaTrapsOsdlr := false
  tdosaImpdefRegs := []
  resetEl := .el3
  resetPc := 0
  debugRegs := []
  pmuRegs := []
  speCtrl := []
  bpwpRegs := []

/-- The configuration MID of 95_test_vectors.md. -/
def Config.mid : Config :=
  { Config.minimal with havePmuv3 := true, pmuExtDebugIf := true, haveAarch32El1 := true }

end Sys2Proof
end

