-- ==== Sys2Proof/Syntax.lean ====
section
/-! DEFINITION. The instructions of the opcode table (30_encoding.md R80): two rows, no pseudo-instruction (R81). -/

namespace Sys2Proof

/-- The number t of the operand `<Xt>`: 5 bits, 0 to 31 (30_encoding.md R74). 31 is the zero register. -/
abbrev RegNum := BitVec 5

/-- One constructor per row of spec/opcode_table.json. -/
inductive Instr where
  /-- `MRS <Xt>, MDCR_EL3` (40_sysreg_access.md R90). -/
  | mrs (t : RegNum)
  /-- `MSR MDCR_EL3, <Xt>` (40_sysreg_access.md R91). -/
  | msr (t : RegNum)
deriving DecidableEq, Repr

end Sys2Proof
end

