-- ==== Sys2Proof/WellFormed.lean ====
section
/-! DEFINITION. Which instructions, configurations, programs and accesses are well formed. -/

namespace Sys2Proof

/-- The register number of an instruction is 0 to 31 (30_encoding.md R74). `RegNum` has no other value, so this check
refuses no term (`Instr.wf_true` in Laws/Encoding.lean); the checks below are the ones that can refuse. -/
def Instr.wf : Instr → Bool
  | .mrs t => decide (t.toNat < 32)
  | .msr t => decide (t.toNat < 32)

/-- A reset entry the rules allow: the level exists (40_sysreg_access.md R92, 60_exceptions.md R117) and the address
is a multiple of 4 (10_state.md R41). -/
def Config.wf (cfg : Config) : Bool :=
  (!decide (cfg.resetEl = .el3) || cfg.haveEl3) &&
  (!decide (cfg.resetEl = .el2) || cfg.haveEl2) &&
  decide (cfg.resetPc.toNat % 4 = 0)

/-- `n` words at `base` are a program: `base` is a multiple of 4 and every word has an address (20_memory.md R62). -/
def programFits (base : DWord) (n : Nat) : Bool :=
  decide (base.toNat % 4 = 0) && decide (base.toNat + 4 * n ≤ 2 ^ 64)

end Sys2Proof
end

