-- ==== Sys2Proof/Decode.lean ====
section
/-! DEFINITION. The format SYSREG (30_encoding.md R71), the decoder and the encoder. Decoding reads no state and no
configuration (R80). The placement of the fields is GK3 to GK5 (log 14), the byte order GK2 (log 15). -/

namespace Sys2Proof

/-- The fields of a word in format SYSREG, high bits first (30_encoding.md R71). -/
structure SysregWord where
  fixed : BitVec 10
  l : BitVec 1
  op0 : BitVec 2
  op1 : BitVec 3
  crn : BitVec 4
  crm : BitVec 4
  op2 : BitVec 3
  rt : RegNum
deriving DecidableEq, Repr

/-- The fields of a word, each at its place in the table of 30_encoding.md R71. -/
def SysregWord.split (w : Word) : SysregWord where
  fixed := w.extractLsb' 22 10
  l := w.extractLsb' 21 1
  op0 := w.extractLsb' 19 2
  op1 := w.extractLsb' 16 3
  crn := w.extractLsb' 12 4
  crm := w.extractLsb' 8 4
  op2 := w.extractLsb' 5 3
  rt := w.extractLsb' 0 5

/-- The word of the fields: the pattern string of 30_encoding.md R71. -/
def SysregWord.join (f : SysregWord) : Word :=
  f.fixed ++ f.l ++ f.op0 ++ f.op1 ++ f.crn ++ f.crm ++ f.op2 ++ f.rt

/-- The word that accesses MDCR_EL3 with the read bit `l` (30_encoding.md R73) and the register number `t`: the fixed
bits of R71 and the selector of R72. -/
def mdcrWord (l : BitVec 1) (t : RegNum) : SysregWord where
  fixed := 0b1101010100#10
  l := l
  op0 := 0b11#2
  op1 := 0b110#3
  crn := 0b0001#4
  crm := 0b0011#4
  op2 := 0b001#3
  rt := t

/-- What the decoder answers. -/
inductive Decoded where
  /-- An instruction, and the bytes after it. -/
  | instr (i : Instr) (rest : List Byte)
  /-- A word this spec gives no meaning (30_encoding.md R78). -/
  | notInScope (w : Word)
  /-- Fewer than the four bytes of an instruction word (30_encoding.md R70). -/
  | truncated
deriving DecidableEq, Repr

/-- The instruction of a word, `none` for a word out of scope (30_encoding.md R75, R78). -/
def decodeWord (w : Word) : Option Instr :=
  let f := SysregWord.split w
  if f = mdcrWord 1 f.rt then some (.mrs f.rt)
  else if f = mdcrWord 0 f.rt then some (.msr f.rt)
  else none

/-- Four bytes, lowest address first, as a word: little-endian (20_memory.md R62). -/
def wordOfBytes (b0 b1 b2 b3 : Byte) : Word :=
  b3 ++ b2 ++ b1 ++ b0

/-- The decoder, total on any bytes. -/
def decodeBytes : List Byte → Decoded
  | b0 :: b1 :: b2 :: b3 :: rest =>
    match decodeWord (wordOfBytes b0 b1 b2 b3) with
    | some i => .instr i rest
    | none => .notInScope (wordOfBytes b0 b1 b2 b3)
  | _ => .truncated

/-- The word of an instruction (30_encoding.md R71 to R74). -/
def encode : Instr → Word
  | .mrs t => (mdcrWord 1 t).join
  | .msr t => (mdcrWord 0 t).join

/-- The bytes of a word, lowest address first (20_memory.md R62). -/
def bytesOfWord (w : Word) : List Byte :=
  [w.extractLsb' 0 8, w.extractLsb' 8 8, w.extractLsb' 16 8, w.extractLsb' 24 8]

/-- The bytes of an instruction. -/
def encodeBytes (i : Instr) : List Byte :=
  bytesOfWord (encode i)

/-- The word whose low `nbits` bits are those of `w` and whose other bits are zero. -/
def tableWord (nbits w : Nat) : Word :=
  BitVec.ofNat 32 (w % 2 ^ nbits)

/-- The decoder on an instruction given by its bits as spec/opcode_table.json numbers them. -/
def decodeTableWord (nbits w : Nat) : Option Instr :=
  match decodeBytes (bytesOfWord (tableWord nbits w)) with
  | .instr i _ => some i
  | .notInScope _ => none
  | .truncated => none

end Sys2Proof
end

