-- ==== Sys2Proof/Machine/State.lean ====
section
/-! DEFINITION. The state of the machine as plain data (10_state.md R47), the faults and refusals a step can end in,
and the state after reset (10_state.md R44). -/

namespace Sys2Proof.Machine

/-- `FieldVal n = known (n-bit value) | unknown` (10_state.md R45, R47). `unknown` is the architecture's UNKNOWN: every
read of it yields a value drawn anew (log 6). -/
inductive FieldVal (n : Nat) where
  | known (v : BitVec n)
  | unknown
deriving DecidableEq, Repr

/-- The stored value of SPD32: `FieldVal 2 or reserved01` (10_state.md R47). `reserved01` is left by a write of the
reserved value 0b01: it behaves as 0b00 and reads back as a drawn value (R30, R49; log 9). -/
inductive Spd32Val where
  | known (v : BitVec 2)
  | reserved01
  | unknown
deriving DecidableEq, Repr

/-- The image of MDCR_EL3: its twelve fields (10_state.md R21, R47). A RES0 bit has no state (R35; log 8). -/
structure Mdcr where
  sccd : FieldVal 1
  epmad : FieldVal 1
  edad : FieldVal 1
  ttrf : FieldVal 1
  ste : FieldVal 1
  spme : FieldVal 1
  sdd : FieldVal 1
  spd32 : Spd32Val
  nspb : FieldVal 2
  tdosa : FieldVal 1
  tda : FieldVal 1
  tpm : FieldVal 1
deriving DecidableEq, Repr

/-- Why the machine stops with a fault. The state is the one before the step (60_exceptions.md R120). -/
inductive Fault where
  /-- `Undefined(pc, word, EL)`. Raised by MRS and MSR at EL0, EL1 and EL2 (60_exceptions.md R100). Safe: the chip
  takes an exception whose entry the spec does not describe, and may go on (log 10). -/
  | undefined (pc : DWord) (word : Word) (el : EL)
  /-- `TrapToEL3`, with every control that traps the access. Raised by `attemptAccess`, by no instruction
  (60_exceptions.md R101, R115). Safe: the chip takes an exception the spec does not describe (log 11). -/
  | trapToEL3 (controls : List Control) (a : Access)
deriving DecidableEq, Repr

/-- Why the machine refuses. No refusal says anything of the chip. -/
inductive Refusal where
  /-- An instruction without a meaning. No arm of exec answers so. Safe. -/
  | notModelled (mnemonic : String)
  /-- The word at the pc is none this spec gives a meaning. Raised by fetch (30_encoding.md R78). Safe (log 16). -/
  | notInScope (w : Word)
  /-- The pc is no multiple of 4. Raised by fetch (20_memory.md R62). Safe (log 12). -/
  | pcMisaligned
  /-- The pc is 0xFFFF_FFFF_FFFF_FFFC. Raised by fetch and by completing an instruction (10_state.md R41). Safe
  (log 12). -/
  | pcAtTop
  /-- The program text has no word at the pc: the run is over or stuck. Raised by fetch (20_memory.md R62,
  70_reset_and_hazards.md R148). Safe (log 4). -/
  | outsideProgram
  /-- A control traps the access and the PE has no EL3. Raised by `attemptAccess` (60_exceptions.md R101). Safe
  (log 11). -/
  | trapWithoutEL3 (controls : List Control) (a : Access)
  /-- An access that no field of MDCR_EL3 traps to EL3 and a control of another register traps first. Raised by
  `attemptAccess`: where such a trap goes is not stated (60_exceptions.md R115). Safe (log 33, DESIGN CHOICE). -/
  | trappedByLowerControl (a : Access)
  /-- An access that nothing traps, to a register the source names and does not specify. Raised by `attemptAccess`
  (10_state.md R43). Safe (log 32). -/
  | registerNotSpecified (r : RegName)
  /-- An access that nothing traps, to SDCR, mapped on MDCR_EL3 or not. Raised by `attemptAccess` (10_state.md R39). Safe as a
  refusal; that no such access happens between two steps is unsafe (log 24). -/
  | sdcrNotModelled (mapped : Bool)
deriving DecidableEq, Repr

/-- The state: the record of 10_state.md R47, and three fields of the model's own (`cfg`, `mem`, `draws`). -/
structure State where
  /-- `cfg` of 00_scope.md R6, fixed for a run: no step writes it (log 1). -/
  cfg : Config
  /-- The stored value of MDCR_EL3 (10_state.md R20, R47). -/
  mdcr : Mdcr
  /-- `X[0]` to `X[30]` (10_state.md R40, R47). -/
  x : Vector (FieldVal 64) 31
  /-- The program counter (10_state.md R41). -/
  pc : DWord
  /-- `PSTATE.EL` (10_state.md R42). -/
  el : EL
  /-- The images replaced since the last context synchronisation event, oldest first (10_state.md R46). -/
  pending : List Mdcr
  /-- The program text as bytes, addresses strictly rising; an unlisted address has no value (20_memory.md R62; log 4). -/
  mem : List Host.Cell
  /-- How many free values have been drawn: the model's own (log 7). -/
  draws : Nat
deriving DecidableEq, Repr

/-- The machine after `Reset` with `into64` (10_state.md R44, 70_reset_and_hazards.md R142), in the configuration FULL
(log 2), with no program loaded (log 5). -/
def State.reset : State where
  cfg := Config.full
  mdcr :=
    { sccd := .known 0
      epmad := .known 0
      edad := .known 0
      ttrf := .unknown
      ste := .known 0
      spme := .known 0
      sdd := .unknown
      spd32 := .unknown
      nspb := .unknown
      tdosa := .unknown
      tda := .unknown
      tpm := .unknown }
  x := Vector.replicate 31 .unknown
  pc := Config.full.resetPc
  el := Config.full.resetEl
  pending := []
  mem := []
  draws := 0

end Sys2Proof.Machine
end

