-- ==== Sys2Proof/Machine/Register.lean ====
section
/-! DEFINITION. MDCR_EL3 as a value: which fields exist, where they stand, what a read returns and what a write stores
(10_state.md R21 to R36, R44, R45, R48, R49). -/

namespace Sys2Proof.Machine

/-- The twelve fields of MDCR_EL3 (10_state.md R21). -/
inductive Field where
  | sccd
  | epmad
  | edad
  | ttrf
  | ste
  | spme
  | sdd
  | spd32
  | nspb
  | tdosa
  | tda
  | tpm
deriving DecidableEq, Repr

/-- Whether a field exists under `cfg`; where it does not, its bits are RES0 (10_state.md R21, R23 to R34). -/
def Field.present (cfg : Config) : Field → Bool
  | .sccd => cfg.havePmuv8p5
  | .epmad => cfg.havePmuv3 && cfg.pmuExtDebugIf
  | .edad => true
  | .ttrf => cfg.haveTracev8p4
  | .ste => cfg.haveTracev8p4
  | .spme => cfg.havePmuv3
  | .sdd => true
  | .spd32 => cfg.haveAarch32El1
  | .nspb => cfg.haveSpe
  | .tdosa => true
  | .tda => true
  | .tpm => cfg.havePmuv3

/-- The mask of a field (10_state.md R21). -/
def Field.mask : Field → DWord
  | .sccd => 0x0080_0000
  | .epmad => 0x0020_0000
  | .edad => 0x0010_0000
  | .ttrf => 0x0008_0000
  | .ste => 0x0004_0000
  | .spme => 0x0002_0000
  | .sdd => 0x0001_0000
  | .spd32 => 0xC000
  | .nspb => 0x3000
  | .tdosa => 0x0400
  | .tda => 0x0200
  | .tpm => 0x0040

/-- The mask of a field that exists, zero for one that does not. -/
def Field.maskIn (cfg : Config) (f : Field) : DWord :=
  if f.present cfg then f.mask else 0

/-- `FMASK(cfg)`: the bits that hold a field (10_state.md R36). -/
def fmask (cfg : Config) : DWord :=
  Field.maskIn cfg .sccd ||| Field.maskIn cfg .epmad ||| Field.maskIn cfg .edad ||| Field.maskIn cfg .ttrf |||
  Field.maskIn cfg .ste ||| Field.maskIn cfg .spme ||| Field.maskIn cfg .sdd ||| Field.maskIn cfg .spd32 |||
  Field.maskIn cfg .nspb ||| Field.maskIn cfg .tdosa ||| Field.maskIn cfg .tda ||| Field.maskIn cfg .tpm

/-- `RES0MASK(cfg) = ~FMASK(cfg)` (10_state.md R36). -/
def res0mask (cfg : Config) : DWord :=
  ~~~ fmask cfg

/-- `RES0_ALWAYS`: the bits no configuration gives a field (10_state.md R22). -/
def res0Always : DWord :=
  0xFFFF_FFFF_FF40_09BF

/-- What a stored value yields when evaluated, `d` being the value drawn for `unknown` (10_state.md R45). -/
def FieldVal.sample {n : Nat} (f : FieldVal n) (d : BitVec n) : BitVec n :=
  match f with
  | .known v => v
  | .unknown => d

/-- What SPD32 reads as: a drawn value after the reserved 0b01 (10_state.md R30). -/
def Spd32Val.sample (f : Spd32Val) (d : BitVec 2) : BitVec 2 :=
  match f with
  | .known v => v
  | .reserved01 => d
  | .unknown => d

/-- What SPD32 behaves as: 0b00 after the reserved 0b01 (10_state.md R30, R37). -/
def Spd32Val.behaves (f : Spd32Val) (d : BitVec 2) : BitVec 2 :=
  match f with
  | .known v => v
  | .reserved01 => 0
  | .unknown => d

/-- The bits a one-value field shows in a read: its value where it exists, the drawn bits where it does not
(10_state.md R35, R48). -/
def FieldVal.readBits {n : Nat} (exists_ : Bool) (f : FieldVal n) (d : BitVec n) : BitVec n :=
  if exists_ then f.sample d else d

/-- The bits SPD32 shows in a read. -/
def Spd32Val.readBits (exists_ : Bool) (f : Spd32Val) (d : BitVec 2) : BitVec 2 :=
  if exists_ then f.sample d else d

/-- `ReadValue(cfg, st)` (10_state.md R48), the drawn bits being those of `d`: the figure of R21, high bits first. -/
def readValue (cfg : Config) (m : Mdcr) (d : DWord) : DWord :=
  d.extractLsb' 24 40 ++
  m.sccd.readBits (Field.sccd.present cfg) (d.extractLsb' 23 1) ++
  d.extractLsb' 22 1 ++
  m.epmad.readBits (Field.epmad.present cfg) (d.extractLsb' 21 1) ++
  m.edad.readBits (Field.edad.present cfg) (d.extractLsb' 20 1) ++
  m.ttrf.readBits (Field.ttrf.present cfg) (d.extractLsb' 19 1) ++
  m.ste.readBits (Field.ste.present cfg) (d.extractLsb' 18 1) ++
  m.spme.readBits (Field.spme.present cfg) (d.extractLsb' 17 1) ++
  m.sdd.readBits (Field.sdd.present cfg) (d.extractLsb' 16 1) ++
  m.spd32.readBits (Field.spd32.present cfg) (d.extractLsb' 14 2) ++
  m.nspb.readBits (Field.nspb.present cfg) (d.extractLsb' 12 2) ++
  d.extractLsb' 11 1 ++
  m.tdosa.readBits (Field.tdosa.present cfg) (d.extractLsb' 10 1) ++
  m.tda.readBits (Field.tda.present cfg) (d.extractLsb' 9 1) ++
  d.extractLsb' 7 2 ++
  m.tpm.readBits (Field.tpm.present cfg) (d.extractLsb' 6 1) ++
  d.extractLsb' 0 6

/-- A field after a write of `v` (10_state.md R49); one that does not exist holds `unknown`, the mark of no state
(R35; log 8). -/
def FieldVal.written {n : Nat} (exists_ : Bool) (v : BitVec n) : FieldVal n :=
  if exists_ then .known v else .unknown

/-- SPD32 after a write of `v`: `reserved01` for 0b01 (10_state.md R49). -/
def Spd32Val.written (exists_ : Bool) (v : BitVec 2) : Spd32Val :=
  if exists_ then (if v = 0b01#2 then .reserved01 else .known v) else .unknown

/-- `WriteValue(cfg, st, w)` (10_state.md R49): every field is written and none depends on what it held. -/
def writeValue (cfg : Config) (w : DWord) : Mdcr where
  sccd := .written (Field.sccd.present cfg) (w.extractLsb' 23 1)
  epmad := .written (Field.epmad.present cfg) (w.extractLsb' 21 1)
  edad := .written (Field.edad.present cfg) (w.extractLsb' 20 1)
  ttrf := .written (Field.ttrf.present cfg) (w.extractLsb' 19 1)
  ste := .written (Field.ste.present cfg) (w.extractLsb' 18 1)
  spme := .written (Field.spme.present cfg) (w.extractLsb' 17 1)
  sdd := .written (Field.sdd.present cfg) (w.extractLsb' 16 1)
  spd32 := .written (Field.spd32.present cfg) (w.extractLsb' 14 2)
  nspb := .written (Field.nspb.present cfg) (w.extractLsb' 12 2)
  tdosa := .written (Field.tdosa.present cfg) (w.extractLsb' 10 1)
  tda := .written (Field.tda.present cfg) (w.extractLsb' 9 1)
  tpm := .written (Field.tpm.present cfg) (w.extractLsb' 6 1)

/-- A field with the reset sentence "On a Warm reset, this field resets to 0", under the condition of the
Configuration paragraph (10_state.md R44, 70_reset_and_hazards.md R141; 90_conflicts.md C4). -/
def FieldVal.resetToZero (exists_ into64 : Bool) : FieldVal 1 :=
  if exists_ && into64 then .known 0 else .unknown

/-- The image a reset leaves (70_reset_and_hazards.md R142). -/
def resetImage (cfg : Config) (into64 : Bool) : Mdcr where
  sccd := .resetToZero (Field.sccd.present cfg) into64
  epmad := .resetToZero (Field.epmad.present cfg) into64
  edad := .resetToZero (Field.edad.present cfg) into64
  ttrf := .unknown
  ste := .resetToZero (Field.ste.present cfg) into64
  spme := .resetToZero (Field.spme.present cfg) into64
  sdd := .unknown
  spd32 := .unknown
  nspb := .unknown
  tdosa := .unknown
  tda := .unknown
  tpm := .unknown

/-- Whether a one-value field holds a known value (10_state.md R45). -/
def FieldVal.isKnown {n : Nat} : FieldVal n → Bool
  | .known _ => true
  | .unknown => false

/-- Whether a read of SPD32 returns a known value (10_state.md R30, R45). -/
def Spd32Val.isKnown : Spd32Val → Bool
  | .known _ => true
  | .reserved01 => false
  | .unknown => false

/-- The mask of a field whose value a read promises. -/
def Field.knownMaskIn (cfg : Config) (f : Field) (isKnown : Bool) : DWord :=
  if f.present cfg && isKnown then f.mask else 0

/-- The positions whose value a read promises: those of the fields that exist and are known (10_state.md R48). -/
def knownMask (cfg : Config) (m : Mdcr) : DWord :=
  Field.knownMaskIn cfg .sccd m.sccd.isKnown ||| Field.knownMaskIn cfg .epmad m.epmad.isKnown |||
  Field.knownMaskIn cfg .edad m.edad.isKnown ||| Field.knownMaskIn cfg .ttrf m.ttrf.isKnown |||
  Field.knownMaskIn cfg .ste m.ste.isKnown ||| Field.knownMaskIn cfg .spme m.spme.isKnown |||
  Field.knownMaskIn cfg .sdd m.sdd.isKnown ||| Field.knownMaskIn cfg .spd32 m.spd32.isKnown |||
  Field.knownMaskIn cfg .nspb m.nspb.isKnown ||| Field.knownMaskIn cfg .tdosa m.tdosa.isKnown |||
  Field.knownMaskIn cfg .tda m.tda.isKnown ||| Field.knownMaskIn cfg .tpm m.tpm.isKnown

/-- "stored" of 95_test_vectors.md: the known fields in place and 0 elsewhere. -/
def storedValue (cfg : Config) (m : Mdcr) : DWord :=
  readValue cfg m 0

/-- A one-value field that keeps no state where it does not exist (10_state.md R35). -/
def FieldVal.wf {n : Nat} (exists_ : Bool) (f : FieldVal n) : Bool :=
  exists_ || decide (f = .unknown)

/-- SPD32 that keeps no state where it does not exist and holds the reserved 0b01 as `reserved01` (10_state.md R35, R49). -/
def Spd32Val.wf (exists_ : Bool) (f : Spd32Val) : Bool :=
  (exists_ || decide (f = .unknown)) && decide (f ≠ .known 0b01#2)

/-- An image the rules can leave: no state in an absent field, no stored 0b01 in SPD32 (10_state.md R35, R47, R49). -/
def Mdcr.wf (cfg : Config) (m : Mdcr) : Bool :=
  m.sccd.wf (Field.sccd.present cfg) &&
  m.epmad.wf (Field.epmad.present cfg) &&
  m.edad.wf (Field.edad.present cfg) &&
  m.ttrf.wf (Field.ttrf.present cfg) &&
  m.ste.wf (Field.ste.present cfg) &&
  m.spme.wf (Field.spme.present cfg) &&
  m.sdd.wf (Field.sdd.present cfg) &&
  m.spd32.wf (Field.spd32.present cfg) &&
  m.nspb.wf (Field.nspb.present cfg) &&
  m.tdosa.wf (Field.tdosa.present cfg) &&
  m.tda.wf (Field.tda.present cfg) &&
  m.tpm.wf (Field.tpm.present cfg)

end Sys2Proof.Machine
end

