-- ==== Sys2Proof/Machine/Ops.lean ====
section
/-! DEFINITION. The shared operations: the program text, the general registers, the free values, fetching, ending an
instruction, the two exceptions, and what the environment may do between two steps. -/

namespace Sys2Proof.Machine

/-- What a step answers. -/
abbrev Outcome := Host.Outcome State Fault Refusal

/-! The program text: a list of cells, addresses strictly rising and below 2^64 (20_memory.md R62; log 4). -/

/-- The byte at an address, `none` where the program text has none. -/
def Memory.read : List Host.Cell → Nat → Option Byte
  | [], _ => none
  | (a, b) :: rest, addr => if a = addr then some b else Memory.read rest addr

/-- The program text with the byte at `addr` set: the one place a cell is put in. -/
def Memory.write : List Host.Cell → Nat → Byte → List Host.Cell
  | [], addr, v => [(addr, v)]
  | (a, b) :: rest, addr, v =>
    if addr < a then (addr, v) :: (a, b) :: rest
    else if addr = a then (addr, v) :: rest
    else (a, b) :: Memory.write rest addr v

/-- Every address is above `low` and below 2^64, and each is above the one before it. -/
def Memory.risesFrom : Nat → List Host.Cell → Bool
  | _, [] => true
  | low, (a, _) :: rest => decide (low ≤ a) && decide (a < 2 ^ 64) && Memory.risesFrom (a + 1) rest

/-- The canonical form. An unlisted address reads as no value, which no entry can equal. -/
def Memory.wf (mem : List Host.Cell) : Bool :=
  Memory.risesFrom 0 mem

/-- Bytes put at consecutive addresses from `addr`, the last first; an address past the top is none and gets no cell. -/
def Memory.writeBytes (mem : List Host.Cell) (addr : Nat) : List Byte → List Host.Cell
  | [] => mem
  | b :: rest =>
    if addr < 2 ^ 64 then Memory.write (Memory.writeBytes mem (addr + 1) rest) addr b
    else mem

/-- The bytes of a list of words at consecutive addresses: the program text `prog` (20_memory.md R62). -/
def programBytes : List Word → List Byte
  | [] => []
  | w :: rest => bytesOfWord w ++ programBytes rest

/-- The four bytes of the word at `addr`, none of them where the program text lacks one. -/
def Memory.readWord (mem : List Host.Cell) (addr : Nat) : List Byte :=
  match Memory.read mem addr, Memory.read mem (addr + 1), Memory.read mem (addr + 2), Memory.read mem (addr + 3) with
  | some b0, some b1, some b2, some b3 => [b0, b1, b2, b3]
  | _, _, _, _ => []

/-! The general registers (10_state.md R40). -/

/-- `X[t]` as stored: `X[31]` is zero. -/
def readX (t : RegNum) (s : State) : FieldVal 64 :=
  if h : t.toNat < 31 then s.x[t.toNat] else .known 0

/-- `X[t] <- v`: a write of `X[31]` is discarded. -/
def writeX (t : RegNum) (v : DWord) (s : State) : State :=
  if h : t.toNat < 31 then { s with x := s.x.set t.toNat (.known v) } else s

/-! Free values (00_scope.md R9; log 7). -/

/-- `draw(64)`, and the state that has drawn it. -/
def draw (s : State) : DWord × State :=
  (Config.freeBits s.draws, { s with draws := s.draws + 1 })

/-! The register MDCR_EL3. -/

/-- `st.MDCR_EL3 <- m` and `st.pending <- st.pending ++ [old image]` (40_sysreg_access.md R91). -/
def assignMdcr (m : Mdcr) (s : State) : State :=
  { s with mdcr := m, pending := s.pending ++ [s.mdcr] }

/-! The program counter (10_state.md R41). -/

/-- The address at which the model steps no further. -/
def topPc : DWord :=
  0xFFFF_FFFF_FFFF_FFFC

/-- `pc <- pc + 4` (40_sysreg_access.md R93). -/
def advancePc (s : State) : State :=
  { s with pc := s.pc + 4 }

/-- The end of an instruction that does not raise: the pc advances, or the model refuses where it would wrap. -/
def complete (s : State) : Outcome :=
  if s.pc = topPc then .refused .pcAtTop else .next (advancePc s)

/-- The instruction at the pc, or why there is none (20_memory.md R62, 30_encoding.md R78, 10_state.md R41). -/
def fetch (s : State) : Except Refusal Instr :=
  if s.pc.toNat % 4 ≠ 0 then .error .pcMisaligned
  else if s.pc = topPc then .error .pcAtTop
  else
    match decodeBytes (Memory.readWord s.mem s.pc.toNat) with
    | .instr i _ => .ok i
    | .notInScope w => .error (.notInScope w)
    | .truncated => .error .outsideProgram

/-! Exceptions. The spec gives no entry and no return: a fault is terminal and changes no state (60_exceptions.md R100,
R101, R120, R121). -/

/-- `raise Undefined()` by the instruction `i` (60_exceptions.md R100): the fault records the pc, the word and the level. -/
def raiseUndefined (i : Instr) (s : State) : Outcome :=
  .fault (.undefined s.pc (encode i) s.el)

/-- `raise TrapToEL3(control, a)` with every control that traps the access (60_exceptions.md R101, R115). -/
def raiseTrapToEL3 (controls : List Control) (a : Access) : Outcome :=
  .fault (.trapToEL3 controls a)

/-! What the environment may do between two steps (00_scope.md R13(b)). -/

/-- The abstract event `ContextSync` (70_reset_and_hazards.md R145). -/
def contextSync (s : State) : State :=
  { s with pending := [] }

/-- The two resets (70_reset_and_hazards.md R140). -/
inductive ResetKind where
  | warm
  | cold
deriving DecidableEq, Repr

/-- `Reset(kind, into64)` (70_reset_and_hazards.md R142). `kind` changes nothing (R140). The configuration, the program
text and the count of drawn values stay: the next run draws values of its own. -/
def resetEvent (_kind : ResetKind) (into64 : Bool) (s : State) : State :=
  { cfg := s.cfg
    mdcr := resetImage s.cfg into64
    x := Vector.replicate 31 .unknown
    pc := s.cfg.resetPc
    el := s.cfg.resetEl
    pending := []
    mem := s.mem
    draws := s.draws }

/-- The host places the program text (00_scope.md R13(d), 20_memory.md R62): nothing else is program text. -/
def loadProgram (base : DWord) (prog : List Word) (s : State) : State :=
  { s with mem := Memory.writeBytes [] base.toNat (programBytes prog) }

end Sys2Proof.Machine
end

