-- ==== Sys2Proof/Machine/Operands.lean ====
section
/-! DEFINITION. The operand forms of the two instructions (30_encoding.md R76, R77): `<Xt>`, read and written, and
`MDCR_EL3`, read and written. There is no immediate and no addressing mode. -/

namespace Sys2Proof.Machine

/-- The value of the source `<Xt>`: the stored value, `draw(64)` where it is `unknown`; reading changes no register
(40_sysreg_access.md R91, 10_state.md R44). -/
def sourceX (t : RegNum) (s : State) : DWord × State :=
  match readX t s with
  | .known v => (v, s)
  | .unknown => draw s

/-- The value a read of MDCR_EL3 returns, with the bits drawn for it (10_state.md R48). Reading changes no field. -/
def sourceMdcr (s : State) : DWord × State :=
  (readValue s.cfg s.mdcr (draw s).1, (draw s).2)

/-- The assignment of a 64-bit value to MDCR_EL3 (10_state.md R49, 40_sysreg_access.md R91). -/
def destMdcr (w : DWord) (s : State) : State :=
  assignMdcr (writeValue s.cfg w) s

end Sys2Proof.Machine
end

