-- ==== Sys2Proof/Machine/Flags.lean ====
section
/-! DEFINITION. Status. No condition flag is in scope and no instruction reads or writes one (10_state.md R42,
40_sysreg_access.md R93). The one status test is that of `PSTATE.EL`. -/

namespace Sys2Proof.Machine

/-- The chain of the access pseudocode, arm by arm (00_scope.md R10(a), 40_sysreg_access.md R92): UNDEFINED at EL0, EL1
and EL2, and the access at EL3. -/
def onlyAtEL3 (i : Instr) (s : State) (access : Outcome) : Outcome :=
  match s.el with
  | .el0 => raiseUndefined i s
  | .el1 => raiseUndefined i s
  | .el2 => raiseUndefined i s
  | .el3 => access

end Sys2Proof.Machine
end

