-- ==== Sys2Proof/Machine/Sysreg.lean ====
section
/-! DEFINITION. The System register access instructions (40_sysreg_access.md). -/

namespace Sys2Proof.Machine

/-- `MRS <Xt>, MDCR_EL3` (40_sysreg_access.md R90). -/
def execMrs (t : RegNum) (s : State) : Outcome :=
  onlyAtEL3 (.mrs t) s (complete (writeX t (sourceMdcr s).1 (sourceMdcr s).2))

/-- `MSR MDCR_EL3, <Xt>` (40_sysreg_access.md R91). -/
def execMsr (t : RegNum) (s : State) : Outcome :=
  onlyAtEL3 (.msr t) s (complete (destMdcr (sourceX t s).1 (sourceX t s).2))

end Sys2Proof.Machine
end

