-- ==== Sys2Proof/Machine/Step.lean ====
section
/-! DEFINITION. One step of the PE (00_scope.md R13(a)): fetch and execute, or refuse. -/

namespace Sys2Proof.Machine

/-- One step. -/
def step (s : State) : Host.Outcome State Fault Refusal :=
  match fetch s with
  | .ok i => exec i s
  | .error r => .refused r

/-- The state with one instruction, given by its bits as spec/opcode_table.json numbers them, placed at the pc. -/
def State.withFetchWord (s : State) (nbits w : Nat) : State :=
  { s with mem := Memory.writeBytes s.mem s.pc.toNat (bytesOfWord (tableWord nbits w)) }

end Sys2Proof.Machine
end

