-- ==== Sys2Proof/Machine/Behaviour.lean ====
section
/-! DEFINITION. What the fields of MDCR_EL3 do (60_exceptions.md R102 to R115) and their Effective values (10_state.md
R37). No instruction evaluates these rules (60_exceptions.md, opening). Each is a function of the environment, of the free
choices of one evaluation, and of the state; it reads its field once (log 18). Where a field does not exist, its rule has
no instance: a trap or disable answers false, an enable answers `none` (10_state.md R37; log 30). -/

namespace Sys2Proof.Machine

/-! Effective values (10_state.md R37). -/

/-- The image an evaluation uses: the current one or one replaced since the last context synchronisation event
(70_reset_and_hazards.md R145). A number past the end stands for the current one. -/
def chosenImage (c : Choice) (s : State) : Mdcr :=
  (s.mdcr :: s.pending).getD c.image s.mdcr

/-- The value drawn for a one-bit field. -/
def drawnBit (c : Choice) : BitVec 1 :=
  c.bits.extractLsb' 0 1

/-- The stored value where EL3 exists; without it the value of the source's sentence, or a drawn one where no sentence
applies (10_state.md R37; log 22). -/
def effective {n : Nat} (cfg : Config) (sentence : Option (BitVec n)) (stored drawn : BitVec n) : BitVec n :=
  if cfg.haveEl3 then stored else sentence.getD drawn

/-- The condition of the sentences of EPMAD, EDAD and SPD32, EL3 being absent (10_state.md R24, R25, R30). -/
def noEl2AndSecure (env : Env) (cfg : Config) : Bool :=
  !cfg.haveEl2 && env.scrEl3NsEff == 0

/-- `Eff(SCCD)`: no sentence. -/
def effSccd (c : Choice) (s : State) : BitVec 1 :=
  effective s.cfg none ((chosenImage c s).sccd.sample (drawnBit c)) (drawnBit c)

/-- `Eff(EPMAD)`. -/
def effEpmad (env : Env) (c : Choice) (s : State) : BitVec 1 :=
  effective s.cfg (if noEl2AndSecure env s.cfg then some 1 else none) ((chosenImage c s).epmad.sample (drawnBit c)) (drawnBit c)

/-- `Eff(EDAD)`. -/
def effEdad (env : Env) (c : Choice) (s : State) : BitVec 1 :=
  effective s.cfg (if noEl2AndSecure env s.cfg then some 1 else none) ((chosenImage c s).edad.sample (drawnBit c)) (drawnBit c)

/-- `Eff(TTRF)`: no sentence. -/
def effTtrf (c : Choice) (s : State) : BitVec 1 :=
  effective s.cfg none ((chosenImage c s).ttrf.sample (drawnBit c)) (drawnBit c)

/-- `Eff(STE)`. -/
def effSte (env : Env) (c : Choice) (s : State) : BitVec 1 :=
  effective s.cfg (if env.secureState then some 1 else none) ((chosenImage c s).ste.sample (drawnBit c)) (drawnBit c)

/-- `Eff(SPME)`. -/
def effSpme (env : Env) (c : Choice) (s : State) : BitVec 1 :=
  effective s.cfg (if env.secureState then some 1 else none) ((chosenImage c s).spme.sample (drawnBit c)) (drawnBit c)

/-- `Eff(SDD)`: no sentence. -/
def effSdd (c : Choice) (s : State) : BitVec 1 :=
  effective s.cfg none ((chosenImage c s).sdd.sample (drawnBit c)) (drawnBit c)

/-- `Eff(SPD32)`. -/
def effSpd32 (env : Env) (c : Choice) (s : State) : BitVec 2 :=
  effective s.cfg (if noEl2AndSecure env s.cfg then some 0b11 else none) ((chosenImage c s).spd32.behaves c.bits) c.bits

/-- `Eff(NSPB)`. -/
def effNspb (env : Env) (c : Choice) (s : State) : BitVec 2 :=
  effective s.cfg (some (if env.secureState then 0b01 else 0b11)) ((chosenImage c s).nspb.sample c.bits) c.bits

/-- `Eff(TDOSA)`: no sentence. -/
def effTdosa (c : Choice) (s : State) : BitVec 1 :=
  effective s.cfg none ((chosenImage c s).tdosa.sample (drawnBit c)) (drawnBit c)

/-- `Eff(TDA)`: no sentence. -/
def effTda (c : Choice) (s : State) : BitVec 1 :=
  effective s.cfg none ((chosenImage c s).tda.sample (drawnBit c)) (drawnBit c)

/-- `Eff(TPM)`: no sentence. -/
def effTpm (c : Choice) (s : State) : BitVec 1 :=
  effective s.cfg none ((chosenImage c s).tpm.sample (drawnBit c)) (drawnBit c)

/-! The register sets (60_exceptions.md R102, R104, R105; 91_not_in_source.md N20). -/

/-- The Trace Filter control registers (R102). -/
def traceFilterRegs : List RegName :=
  [.trfcrEl2, .trfcrEl12, .trfcrEl1, .htrfcr, .trfcr]

/-- The two registers of the double lock (R104). -/
def osdlrRegs : List RegName :=
  [.osdlrEl1, .dbgosdlr]

/-- `POWERDOWN(cfg)` (R104). -/
def powerdownRegs (cfg : Config) : List RegName :=
  [.oslarEl1, .oslsrEl1, .dbgprcrEl1, .dbgoslar, .dbgoslsr, .dbgprcr] ++ cfg.tdosaImpdefRegs ++
  (if cfg.haveDoublelock || cfg.tdosaTrapsOsdlr then osdlrRegs else [])

/-- The registers whose TDA trap is ignored in Debug state (R105). -/
def dtrRegs : List RegName :=
  [.dbgdtrrxInt, .dbgdtrtxInt, .dbgdtrEl0, .dbgdtrrxEl0, .dbgdtrtxEl0]

/-- `DEBUG_REGS`: the five registers R105 implies, and the parameter (N20). -/
def inDebugRegs (cfg : Config) (r : RegName) : Bool :=
  dtrRegs.contains r || cfg.debugRegs.contains r

/-- Whether TDA covers the register: a debug register that TDOSA cannot trap. Where `POWERDOWN(cfg)` leaves OSDLR_EL1
and DBGOSDLR out, both answers are admitted (R105, U9; log 28). -/
def tdaCovers (c : Choice) (cfg : Config) (r : RegName) : Bool :=
  !(powerdownRegs cfg).contains r && (if osdlrRegs.contains r then c.answer else inDebugRegs cfg r)

/-! Levels. -/

/-- At EL1 or EL2. -/
def atEl1OrEl2 : EL → Bool
  | .el0 => false
  | .el1 => true
  | .el2 => true
  | .el3 => false

/-- At EL0, EL1 or EL2. -/
def belowEl3 : EL → Bool
  | .el0 => true
  | .el1 => true
  | .el2 => true
  | .el3 => false

/-! The controls that win over a trap to EL3 (60_exceptions.md R115). -/

/-- `TrappedByLowerControl` as the rule of the field lists it (R104, R105, R106; log 19). -/
def lowerControls : Control → List LowerControl
  | .ttrf => []
  | .nspb => []
  | .tdosa => [.hdcrTdosa, .mdcrEl2Tdosa]
  | .tda => [.dbgdscrExtUdccdis, .mdscrEl1Tdcc, .hdcrTda, .mdcrEl2Tda]
  | .tpm => [.hdcrTpm, .mdcrEl2Tpm]

/-- Whether a control listed for the field traps the access first. -/
def trappedLower (env : Env) (k : Control) (a : Access) : Bool :=
  (lowerControls k).any (fun l => env.lowerTraps.contains (l, a))

/-! Traps to EL3 (60_exceptions.md R102 to R106). -/

/-- `TrapsTTRF(a)` (R102). -/
def trapsTtrf (c : Choice) (s : State) (a : Access) : Bool :=
  Field.ttrf.present s.cfg && effTtrf c s == 1 && traceFilterRegs.contains a.reg && atEl1OrEl2 a.el

/-- Whether a value of NSPB gives the Profiling Buffer to Secure state: bit [13] is 0 (R103). -/
def nspbOwnerSecure (v : BitVec 2) : Bool :=
  !v.getLsbD 1

/-- `TrapsNSPB(a)` (R103), at EL2 and EL1 for every value (D19; log 20). -/
def trapsNspb (env : Env) (c : Choice) (s : State) (a : Access) : Bool :=
  Field.nspb.present s.cfg && s.cfg.speCtrl.contains a.reg && atEl1OrEl2 a.el &&
  (!(effNspb env c s).getLsbD 0 || a.secure != nspbOwnerSecure (effNspb env c s))

/-- `TrapsTDOSA(a)` (R104). -/
def trapsTdosa (env : Env) (c : Choice) (s : State) (a : Access) : Bool :=
  Field.tdosa.present s.cfg && effTdosa c s == 1 && (powerdownRegs s.cfg).contains a.reg && atEl1OrEl2 a.el &&
  !trappedLower env .tdosa a

/-- `TrapsTDA(a)` (R105). -/
def trapsTda (env : Env) (c : Choice) (s : State) (a : Access) : Bool :=
  Field.tda.present s.cfg && effTda c s == 1 && tdaCovers c s.cfg a.reg && belowEl3 a.el &&
  !trappedLower env .tda a && !(env.inDebugState && dtrRegs.contains a.reg)

/-- `TrapsTPM(a)` (R106). -/
def trapsTpm (env : Env) (c : Choice) (s : State) (a : Access) : Bool :=
  Field.tpm.present s.cfg && effTpm c s == 1 && s.cfg.pmuRegs.contains a.reg && belowEl3 a.el &&
  !trappedLower env .tpm a

/-- Whether a field traps an access to EL3. -/
def trapsBy (env : Env) (c : Choice) (s : State) (a : Access) : Control → Bool
  | .ttrf => trapsTtrf c s a
  | .nspb => trapsNspb env c s a
  | .tdosa => trapsTdosa env c s a
  | .tda => trapsTda env c s a
  | .tpm => trapsTpm env c s a

/-- The set of controls that trap an access (R115): each control is evaluated with a choice of its own. -/
def trappingControls (env : Env) (choose : Control → Choice) (s : State) (a : Access) : List Control :=
  [.ttrf, .nspb, .tdosa, .tda, .tpm].filter (fun k => trapsBy env (choose k) s a k)

/-- An access that nothing traps: the register it names is not specified (10_state.md R39, R43; log 24, log 32). -/
def performAccess (s : State) (a : Access) : Outcome :=
  if a.reg = .sdcr then .refused (.sdcrNotModelled s.cfg.sdcrMapped) else .refused (.registerNotSpecified a.reg)

/-- Whether any of the eight controls of other registers traps the access (00_scope.md R7). -/
def trappedByLower (env : Env) (a : Access) : Bool :=
  env.lowerTraps.any (fun p => decide (p.2 = a))

/-- An abstract access (R101): trapped to EL3, refused where a control traps it and the PE has no EL3, else performed.
DESIGN CHOICE (log 33): an access that a control of another register traps, and no field of MDCR_EL3 does, is refused
under a name of its own, for where such a trap goes is not stated (R115). -/
def attemptAccess (env : Env) (choose : Control → Choice) (s : State) (a : Access) : Outcome :=
  if trappingControls env choose s a = [] then
    if trappedByLower env a then .refused (.trappedByLowerControl a) else performAccess s a
  else if s.cfg.haveEl3 then raiseTrapToEL3 (trappingControls env choose s a) a
  else .refused (.trapWithoutEL3 (trappingControls env choose s a) a)

/-! The Profiling Buffer (60_exceptions.md R103). -/

/-- Which virtual addresses the Profiling Buffer uses. -/
inductive BufferSpace where
  | secureVA
  | nonSecureVA
deriving DecidableEq, Repr

/-- Whether Secure state owns the Profiling Buffer; `none` where NSPB does not exist. -/
def profilingOwnerSecure (env : Env) (c : Choice) (s : State) : Option Bool :=
  if Field.nspb.present s.cfg then some (nspbOwnerSecure (effNspb env c s)) else none

/-- `ProfilingEnabled(secure)`. -/
def profilingEnabled (env : Env) (c : Choice) (s : State) (secure : Bool) : Option Bool :=
  (profilingOwnerSecure env c s).map (fun owner => secure == owner)

/-- `BufferAddressSpace`. -/
def bufferAddressSpace (env : Env) (c : Choice) (s : State) : Option BufferSpace :=
  (profilingOwnerSecure env c s).map (fun owner => if owner then .secureVA else .nonSecureVA)

/-! Debug exceptions in Secure state (60_exceptions.md R107 to R109). -/

/-- The two classes of debug exception the source tells apart (R109). -/
inductive DebugExc where
  | breakpointInstruction
  | other
deriving DecidableEq, Repr

/-- `SDD_applies` (R107). -/
def sddApplies (env : Env) : Bool :=
  env.secureState && env.scrEl3RwEff == 1

/-- `DebugExcEnabled(el)` as SDD says it (R107), a Breakpoint Instruction exception always being enabled (R109); `none`
where SDD says nothing. With SDD = 0 both answers are admitted for EL2 and EL3 (U17; log 28). -/
def debugExcEnabledBySdd (env : Env) (c : Choice) (s : State) (k : DebugExc) (el : EL) : Option Bool :=
  match k with
  | .breakpointInstruction => some true
  | .other =>
    if sddApplies env then
      if effSdd c s = 1 then some false
      else
        match el with
        | .el0 => some true
        | .el1 => some (env.mdscrEl1Kde == 1 && env.pstateD == 0)
        | .el2 => some c.answer
        | .el3 => some c.answer
    else none

/-- `SPD32_applies` (R108). -/
def spd32Applies (env : Env) (cfg : Config) : Bool :=
  Field.spd32.present cfg && env.secureState && env.scrEl3RwEff == 0

/-- What a value of SPD32 says of debug exceptions from Secure EL1: 0b01 as 0b00 (R108, 10_state.md R30). -/
def spd32Meaning (env : Env) (v : BitVec 2) : Bool :=
  if v = 0b10 then false else if v = 0b11 then true else env.authEnablesSecureEl1Debug

/-- `SecureEL1DebugEnabled` (R108), Breakpoint Instruction exceptions always being enabled (R109); `none` where SPD32
says nothing. -/
def secureEl1DebugEnabled (env : Env) (c : Choice) (s : State) (k : DebugExc) : Option Bool :=
  match k with
  | .breakpointInstruction => some true
  | .other => if spd32Applies env s.cfg then some (spd32Meaning env (effSpd32 env c s)) else none

/-- `SecureEL0DebugEnabled` (R108): said only where Secure EL1 is using AArch32. -/
def secureEl0DebugEnabled (env : Env) (c : Choice) (s : State) (k : DebugExc) : Option Bool :=
  match k with
  | .breakpointInstruction => some true
  | .other =>
    if spd32Applies env s.cfg && env.secureEl1IsAarch32 then
      some (spd32Meaning env (effSpd32 env c s) || env.sder32El3Suiden == 1)
    else none

/-! Counting, trace and the external debugger (60_exceptions.md R110 to R114). -/

/-- What counts cycles (R110). -/
inductive CycleCount where
  | pmccntrEl0
  /-- "the CPU_CYCLES event or any other event that counts cycles" -/
  | otherCycleEvent
deriving DecidableEq, Repr

/-- `CycleCounterProhibitedBySCCD` (R110); no other counting of cycles is affected. -/
def prohibitedBySccd (env : Env) (c : Choice) (s : State) (k : CycleCount) : Bool :=
  match k with
  | .pmccntrEl0 => Field.sccd.present s.cfg && effSccd c s == 1 && env.secureState
  | .otherCycleEvent => false

/-- `ExtPMUAccessDisabled(x)` (R111): the first alternative that applies (00_scope.md R10(e); log 21). -/
def extPmuAccessDisabled (env : Env) (c : Choice) (s : State) (x : ExtAccess) : Bool :=
  Field.epmad.present s.cfg && s.cfg.pmuRegs.contains x.reg && effEpmad env c s == 1 &&
  (if s.cfg.haveDebugv8p4 && s.cfg.havePmuv3 then x.nonsecureAccess else !env.authOverride)

/-- `ExtDbgAccessDisabled(x)` (R112): the first alternative that applies; the value table governs (90_conflicts.md C2,
C6; log 21). -/
def extDbgAccessDisabled (env : Env) (c : Choice) (s : State) (x : ExtAccess) : Bool :=
  effEdad env c s == 1 &&
  (if s.cfg.haveDebugv8p4 then
    x.nonsecureAccess && (s.cfg.bpwpRegs.contains x.reg || x.reg == .oslarEl1)
  else if s.cfg.haveDebugv8p2 then
    !env.authOverride && (s.cfg.bpwpRegs.contains x.reg || x.reg == .oslarEl1)
  else
    !env.authOverride && (s.cfg.bpwpRegs.contains x.reg || (x.reg == .oslarEl1 && s.cfg.edadCoversOslar)))

/-- `TraceAllowedInSecure` (R113); `none` where STE does not exist. -/
def traceAllowedInSecure (env : Env) (c : Choice) (s : State) : Option Bool :=
  if Field.ste.present s.cfg then
    some (if effSte env c s = 0 then env.traceOverriddenByExternalDebugger else !env.traceProhibitedByTrfcr)
  else none

/-- `EventCountingAllowedInSecure` (R114): the first alternative that applies; `none` where SPME does not exist. -/
def eventCountingAllowedInSecure (env : Env) (c : Choice) (s : State) : Option Bool :=
  if s.cfg.haveDebugv8p2 && s.cfg.havePmuv3 then some (effSpme env c s == 1)
  else if s.cfg.havePmuv3 then some (effSpme env c s == 1 || env.externalSecureNoninvasiveDebugEnabled)
  else none

end Sys2Proof.Machine
end

