-- ==== Sys2Proof/Safety.lean ====
section
/-! DEFINITION. What holds of every state a run reaches, what a run is, and when it is over. -/

namespace Sys2Proof.Machine

/-- The current level exists (40_sysreg_access.md R92, 60_exceptions.md R117; log 29). -/
def elExists (cfg : Config) : EL → Bool
  | .el0 => true
  | .el1 => true
  | .el2 => cfg.haveEl2
  | .el3 => cfg.haveEl3

/-- What every state of a run has: a reset entry the rules allow (10_state.md R41, R44), a pc that is a multiple of 4
(R41), a level that exists, images that keep no state in a RES0 bit and no stored 0b01 in SPD32 (R35, R49), and a program
text in canonical form. -/
abbrev State.Inv (s : State) : Prop :=
  s.cfg.wf = true ∧ s.pc.toNat % 4 = 0 ∧ elExists s.cfg s.el = true ∧ s.mdcr.wf s.cfg = true ∧
  (∀ m ∈ s.pending, m.wf s.cfg = true) ∧ Memory.wf s.mem = true

/-- What may happen to a state of a running machine: a step of the PE, or `ContextSync` by the environment
(00_scope.md R13). A change of `Env` changes no state; a reset starts a new run (70_reset_and_hazards.md R142). -/
inductive Move : State → State → Prop where
  | step {s t : State} (h : step s = .next t) : Move s t
  | sync (s : State) : Move s (contextSync s)

/-- The states a run from `s` reaches, `k` moves on. -/
inductive Reaches : Nat → State → State → Prop where
  | start (s : State) : Reaches 0 s s
  | more {k : Nat} {s t u : State} (h : Reaches k s t) (m : Move t u) : Reaches (k + 1) s u

/-- The state of a run over `n` words at `base` is final (70_reset_and_hazards.md R148). A fault is no state of a run:
a step that faults has no next state. -/
abbrev Final (base : DWord) (n : Nat) (s : State) : Prop :=
  s.pc.toNat = base.toNat + 4 * n

/-- The PE takes no step: the state is final, stuck or refused (70_reset_and_hazards.md R148). -/
def Halted (s : State) : Prop :=
  ∃ r, step s = .refused r

end Sys2Proof.Machine
end

