-- ==== Sys2Proof/Certificates/Slice0/Obligations.lean ====
section
/-! DEFINITION. The statements for the provers. Each docstring names the rule of spec/ it formalises, and the log entries
(notes/assumptions) whose choices it rests on. A statement about a free value (`Config.freeBits`, a `Choice`) holds for
every value. -/

open Sys2Proof Sys2Proof.Machine

/-! Encoding (30_encoding.md). -/

/-- Decoding and encoding agree, byte by byte and with whatever bytes follow: exactly the bytes of an instruction decode
to it, whatever its register number (30_encoding.md section 2, 20_memory.md R62; the placement of the fields is log 14,
the byte order log 15). -/
def Obligations.DecodeBytesIffEncodedBytes : Prop :=
  ∀ (i : Instr) (bs rest : List Byte), decodeBytes bs = .instr i rest ↔ bs = encodeBytes i ++ rest

/-- The decoder, which compares the fields of R71 with the selector of R72, accepts exactly the words the match and mask
of R75 and of opcode_table.json accept, with t the low five bits; the encoder's words are match | t (log 14). -/
def Obligations.DecodeIffTableMatch : Prop :=
  ∀ (w : Word) (t : RegNum),
    (decodeWord w = some (.mrs t) ↔ w &&& 0xFFFFFFE0 = 0xD53E1320 ∧ t = w.extractLsb' 0 5) ∧
    (decodeWord w = some (.msr t) ↔ w &&& 0xFFFFFFE0 = 0xD51E1320 ∧ t = w.extractLsb' 0 5) ∧
    encode (.mrs t) = 0xD53E1320 ||| t.setWidth 32 ∧
    encode (.msr t) = 0xD51E1320 ||| t.setWidth 32

/-- R72: the word of either instruction carries the five selector values of MDCR_EL3, each in its own field. -/
def Obligations.EveryWordCarriesSelector : Prop :=
  ∀ i : Instr,
    (SysregWord.split (encode i)).op0 = 0b11 ∧ (SysregWord.split (encode i)).op1 = 0b110 ∧
    (SysregWord.split (encode i)).crn = 0b0001 ∧ (SysregWord.split (encode i)).crm = 0b0011 ∧
    (SysregWord.split (encode i)).op2 = 0b001

/-- Words written out bit by bit from R71 (95_test_vectors.md 2.1, rows E1, E5, E8, E13, E18, E19) decode to the
instruction they stand for, or to none (log 14; the bytes of E1 are log 15). A sanity statement. -/
def Obligations.SampleWordsDecode : Prop :=
  decodeBytes [0x20, 0x13, 0x3E, 0xD5] = .instr (.mrs 0) [] ∧
  decodeWord 0b11010101001111100001001100111111 = some (.mrs 31) ∧
  decodeWord 0b11010101000111100001001100110001 = some (.msr 17) ∧
  decodeWord 0xD53E1300 = none ∧ decodeWord 0xD5361320 = none ∧ decodeWord 0xD57E1320 = none

/-! The step (20_memory.md R62, 30_encoding.md R78, 10_state.md R41). -/

/-- Where the four bytes at an aligned pc below the top decode to an instruction, the step is that instruction's
execution, with nothing around it (R62, R13(a); log 4, log 12). -/
def Obligations.StepRunsDecodedInstruction : Prop :=
  ∀ (s : State) (i : Instr) (b0 b1 b2 b3 : Byte),
    s.pc.toNat % 4 = 0 → s.pc ≠ topPc →
    Memory.read s.mem s.pc.toNat = some b0 → Memory.read s.mem (s.pc.toNat + 1) = some b1 →
    Memory.read s.mem (s.pc.toNat + 2) = some b2 → Memory.read s.mem (s.pc.toNat + 3) = some b3 →
    decodeBytes [b0, b1, b2, b3] = .instr i [] →
    step s = exec i s

/-- Every word but the 64 of R75 is refused by name, at every Exception level, and is never UNDEFINED (R78; the spec's
own decision D13, log 16; fetching is log 4, log 12, log 14, log 15). -/
def Obligations.OtherWordsAreRefused : Prop :=
  ∀ (s : State) (b0 b1 b2 b3 : Byte),
    s.pc.toNat % 4 = 0 → s.pc ≠ topPc →
    Memory.read s.mem s.pc.toNat = some b0 → Memory.read s.mem (s.pc.toNat + 1) = some b1 →
    Memory.read s.mem (s.pc.toNat + 2) = some b2 → Memory.read s.mem (s.pc.toNat + 3) = some b3 →
    wordOfBytes b0 b1 b2 b3 &&& 0xFFFFFFE0 ≠ 0xD53E1320 → wordOfBytes b0 b1 b2 b3 &&& 0xFFFFFFE0 ≠ 0xD51E1320 →
    step s = .refused (.notInScope (wordOfBytes b0 b1 b2 b3))

/-- Where there is no instruction to fetch there is no step: a misaligned pc, the top address, a word that lacks a byte
(R62, R41; the spec's own decisions D4 and D12, log 4, log 12). -/
def Obligations.NoStepWithoutInstruction : Prop :=
  ∀ s : State,
    (s.pc.toNat % 4 ≠ 0 → step s = .refused .pcMisaligned) ∧
    (s.pc = topPc → step s = .refused .pcAtTop) ∧
    (s.pc.toNat % 4 = 0 → s.pc ≠ topPc →
      (∃ k, k < 4 ∧ Memory.read s.mem (s.pc.toNat + k) = none) → step s = .refused .outsideProgram)

/-- The instruction executed in a state is `prog[(pc - base)/4]`, and a pc outside `[base, base + 4n)` has no step (R62,
R148; the spec's own decision D12, log 4, log 5). -/
def Obligations.LoadedProgramIsExecuted : Prop :=
  ∀ (s : State) (base : DWord) (prog : List Word),
    programFits base prog.length = true → s.pc.toNat % 4 = 0 → s.pc ≠ topPc →
    (∀ (i : Nat) (h : i < prog.length), s.pc.toNat = base.toNat + 4 * i →
      step (loadProgram base prog s) =
        match decodeWord prog[i] with
        | some j => exec j (loadProgram base prog s)
        | none => .refused (.notInScope prog[i])) ∧
    (s.pc.toNat < base.toNat ∨ base.toNat + 4 * prog.length ≤ s.pc.toNat →
      step (loadProgram base prog s) = .refused .outsideProgram)

/-- A final state of a run takes no step (R148, the spec's own definition D24; log 4). -/
def Obligations.FinalStateTakesNoStep : Prop :=
  ∀ (s : State) (base : DWord) (prog : List Word),
    programFits base prog.length = true → Final base prog.length s → Halted (loadProgram base prog s)

/-! What a read returns and a write stores (10_state.md R36, R48, R49). -/

/-- R36: the bits of `FMASK(cfg)` are those of EDAD, SDD, TDOSA, TDA, and those of each optional field that exists;
`RES0MASK(cfg)` is the complement. -/
def Obligations.FieldMaskHoldsPresentFields : Prop :=
  ∀ (cfg : Config) (i : Nat),
    (fmask cfg).getLsbD i =
      (i == 20 || i == 16 || i == 10 || i == 9 || (cfg.havePmuv8p5 && i == 23) ||
       (cfg.havePmuv3 && cfg.pmuExtDebugIf && i == 21) || (cfg.haveTracev8p4 && (i == 19 || i == 18)) ||
       (cfg.havePmuv3 && (i == 17 || i == 6)) || (cfg.haveAarch32El1 && (i == 15 || i == 14)) ||
       (cfg.haveSpe && (i == 13 || i == 12))) ∧
    (i < 64 → (res0mask cfg).getLsbD i = !(fmask cfg).getLsbD i)

/-- R48, field by field: a field that exists and is known shows its value; every other position shows the drawn bit (the
drawn bits are the spec's own decisions D6 to D8, log 6, log 8, log 9). -/
def Obligations.ReadShowsKnownFieldsInPlace : Prop :=
  ∀ (cfg : Config) (m : Mdcr) (d : DWord),
    (∀ v, Field.present cfg .sccd = true → m.sccd = .known v → (readValue cfg m d).extractLsb' 23 1 = v) ∧
    (∀ v, Field.present cfg .epmad = true → m.epmad = .known v → (readValue cfg m d).extractLsb' 21 1 = v) ∧
    (∀ v, Field.present cfg .edad = true → m.edad = .known v → (readValue cfg m d).extractLsb' 20 1 = v) ∧
    (∀ v, Field.present cfg .ttrf = true → m.ttrf = .known v → (readValue cfg m d).extractLsb' 19 1 = v) ∧
    (∀ v, Field.present cfg .ste = true → m.ste = .known v → (readValue cfg m d).extractLsb' 18 1 = v) ∧
    (∀ v, Field.present cfg .spme = true → m.spme = .known v → (readValue cfg m d).extractLsb' 17 1 = v) ∧
    (∀ v, Field.present cfg .sdd = true → m.sdd = .known v → (readValue cfg m d).extractLsb' 16 1 = v) ∧
    (∀ v, Field.present cfg .spd32 = true → m.spd32 = .known v → (readValue cfg m d).extractLsb' 14 2 = v) ∧
    (∀ v, Field.present cfg .nspb = true → m.nspb = .known v → (readValue cfg m d).extractLsb' 12 2 = v) ∧
    (∀ v, Field.present cfg .tdosa = true → m.tdosa = .known v → (readValue cfg m d).extractLsb' 10 1 = v) ∧
    (∀ v, Field.present cfg .tda = true → m.tda = .known v → (readValue cfg m d).extractLsb' 9 1 = v) ∧
    (∀ v, Field.present cfg .tpm = true → m.tpm = .known v → (readValue cfg m d).extractLsb' 6 1 = v) ∧
    readValue cfg m d &&& ~~~ knownMask cfg m = d &&& ~~~ knownMask cfg m

/-- A read is the stored value with drawn bits everywhere a field is not known, and in nothing else does it depend on the
draw: both hardware behaviours of RES0 are among its values (R48, R35; the free bits are the spec's own decisions D6 to
D8, log 6, log 8, log 9). -/
def Obligations.ReadIsStoredValueAndDraw : Prop :=
  ∀ (cfg : Config) (m : Mdcr) (d : DWord),
    readValue cfg m d = storedValue cfg m ||| (d &&& ~~~ knownMask cfg m) ∧
    storedValue cfg m &&& ~~~ knownMask cfg m = 0 ∧ knownMask cfg m &&& res0mask cfg = 0

/-- R49: a write makes every field that exists known at its bits of the operand, SPD32 = 0b01 becoming `reserved01` (log 9),
and drops every RES0 bit (log 8). -/
def Obligations.WriteStoresEveryField : Prop :=
  ∀ (cfg : Config) (w : DWord),
    (Field.present cfg .sccd = true → (writeValue cfg w).sccd = .known (w.extractLsb' 23 1)) ∧
    (Field.present cfg .epmad = true → (writeValue cfg w).epmad = .known (w.extractLsb' 21 1)) ∧
    (Field.present cfg .edad = true → (writeValue cfg w).edad = .known (w.extractLsb' 20 1)) ∧
    (Field.present cfg .ttrf = true → (writeValue cfg w).ttrf = .known (w.extractLsb' 19 1)) ∧
    (Field.present cfg .ste = true → (writeValue cfg w).ste = .known (w.extractLsb' 18 1)) ∧
    (Field.present cfg .spme = true → (writeValue cfg w).spme = .known (w.extractLsb' 17 1)) ∧
    (Field.present cfg .sdd = true → (writeValue cfg w).sdd = .known (w.extractLsb' 16 1)) ∧
    (Field.present cfg .spd32 = true → w.extractLsb' 14 2 ≠ 0b01#2 →
      (writeValue cfg w).spd32 = .known (w.extractLsb' 14 2)) ∧
    (Field.present cfg .spd32 = true → w.extractLsb' 14 2 = 0b01#2 → (writeValue cfg w).spd32 = .reserved01) ∧
    (Field.present cfg .nspb = true → (writeValue cfg w).nspb = .known (w.extractLsb' 12 2)) ∧
    (Field.present cfg .tdosa = true → (writeValue cfg w).tdosa = .known (w.extractLsb' 10 1)) ∧
    (Field.present cfg .tda = true → (writeValue cfg w).tda = .known (w.extractLsb' 9 1)) ∧
    (Field.present cfg .tpm = true → (writeValue cfg w).tpm = .known (w.extractLsb' 6 1)) ∧
    (∀ w' : DWord, w &&& fmask cfg = w' &&& fmask cfg → writeValue cfg w' = writeValue cfg w)

/-! The two instructions (40_sysreg_access.md). -/

/-- R90: at EL3, MRS completes; X[t] is the value ReadValue returns (nothing is written for t = 31), and nothing else
changes but the pc (pc + 4 is the spec's own decision D4, log 12; the zero register is log 13) and the model's count of
draws (log 7). -/
def Obligations.MrsReadsRegisterAtEl3 : Prop :=
  ∀ (s : State) (t : RegNum), s.el = .el3 → s.pc ≠ topPc →
    ∃ u, exec (.mrs t) s = .next u ∧
      (t ≠ 31#5 → readX t u = .known (readValue s.cfg s.mdcr (Config.freeBits s.draws))) ∧
      (∀ r, r ≠ t ∨ t = 31#5 → readX r u = readX r s) ∧
      u.pc = s.pc + 4 ∧ u.mdcr = s.mdcr ∧ u.pending = s.pending ∧ u.el = s.el ∧ u.cfg = s.cfg ∧
      u.draws = s.draws + 1 ∧ ∀ a, Memory.read u.mem a = Memory.read s.mem a

/-- R91: at EL3, MSR completes; the register is WriteValue of X[t] (zero for t = 31, a free value where X[t] is
`unknown`), the replaced image is appended to pending, no general register changes, and nothing else changes but the pc
(pc + 4 is the spec's own decision D4, log 12; the zero register is log 13, `unknown` log 6, pending log 17) and the model's
count of draws (log 7). -/
def Obligations.MsrWritesRegisterAtEl3 : Prop :=
  ∀ (s : State) (t : RegNum), s.el = .el3 → s.pc ≠ topPc →
    ∃ u, exec (.msr t) s = .next u ∧
      (t = 31#5 → u.mdcr = writeValue s.cfg 0) ∧
      (∀ w, readX t s = .known w → u.mdcr = writeValue s.cfg w ∧ u.draws = s.draws) ∧
      (readX t s = .unknown → u.mdcr = writeValue s.cfg (Config.freeBits s.draws) ∧ u.draws = s.draws + 1) ∧
      u.pending = s.pending ++ [s.mdcr] ∧ (∀ r, readX r u = readX r s) ∧
      u.pc = s.pc + 4 ∧ u.el = s.el ∧ u.cfg = s.cfg ∧ ∀ a, Memory.read u.mem a = Memory.read s.mem a

/-- R92: at EL0, EL1 and EL2 both instructions are UNDEFINED, whatever the operand and whatever the register holds (that
UNDEFINED is a fault recording the pc, the word and the level is the spec's own decision D5, log 10). -/
def Obligations.UndefinedBelowEl3 : Prop :=
  ∀ (i : Instr) (s : State), s.el ≠ .el3 → exec i s = .fault (.undefined s.pc (encode i) s.el)

/-- The word an Undefined fault of a step records is the word fetched (R100, 95_test_vectors.md 2.5; log 10; fetching is
log 4, log 12, log 14, log 15). -/
def Obligations.UndefinedFaultRecordsFetchedWord : Prop :=
  ∀ (s : State) (i : Instr) (b0 b1 b2 b3 : Byte),
    s.pc.toNat % 4 = 0 → s.pc ≠ topPc → s.el ≠ .el3 →
    Memory.read s.mem s.pc.toNat = some b0 → Memory.read s.mem (s.pc.toNat + 1) = some b1 →
    Memory.read s.mem (s.pc.toNat + 2) = some b2 → Memory.read s.mem (s.pc.toNat + 3) = some b3 →
    decodeWord (wordOfBytes b0 b1 b2 b3) = some i →
    step s = .fault (.undefined s.pc (wordOfBytes b0 b1 b2 b3) s.el)

/-- At the top address either instruction is refused at EL3, for the pc would wrap (R41; the spec's own decision D4,
log 12). -/
def Obligations.NoWrapAtTop : Prop :=
  ∀ (i : Instr) (s : State), s.el = .el3 → s.pc = topPc → exec i s = .refused .pcAtTop

/-- An MRS after an MSR returns the fields as that MSR wrote them: all of them, but for SPD32 where the reserved 0b01 was
written (R65(a), 95_test_vectors.md 2.3; log 9; the pc is log 12, the zero register log 13). -/
def Obligations.MsrThenMrsReadsBack : Prop :=
  ∀ (s : State) (a b : RegNum) (w : DWord),
    s.el = .el3 → s.pc ≠ topPc → s.pc + 4 ≠ topPc → readX a s = .known w → b ≠ 31#5 →
    ∃ u v r, exec (.msr a) s = .next u ∧ exec (.mrs b) u = .next v ∧ readX b v = .known r ∧
      ∀ mask, mask = fmask s.cfg &&& (if w.extractLsb' 14 2 = 0b01#2 then ~~~ 0xC000#64 else BitVec.allOnes 64) →
        r &&& mask = w &&& mask

/-- Writing back the value just read leaves every known field as it was (R91(f)); `Mdcr.wf` is part of the invariant
(log 9: SPD32 never holds a known 0b01; the pc is log 12, the zero register log 13). -/
def Obligations.SaveThenRestoreKeepsKnownFields : Prop :=
  ∀ (s : State) (t : RegNum),
    s.el = .el3 → s.pc ≠ topPc → s.pc + 4 ≠ topPc → t ≠ 31#5 → s.mdcr.wf s.cfg = true →
    ∃ u v, exec (.mrs t) s = .next u ∧ exec (.msr t) u = .next v ∧
      (storedValue s.cfg v.mdcr) &&& knownMask s.cfg s.mdcr = storedValue s.cfg s.mdcr ∧
      knownMask s.cfg s.mdcr &&& ~~~ knownMask s.cfg v.mdcr = 0

/-- What MRS returns depends on the configuration, the register and the drawn bits alone: not on pending, on a general
register, on the program or on the pc (R90(e), R145 "Direct reads are not affected"; the count of draws is log 7, the zero
register log 13). -/
def Obligations.MrsResultDependsOnRegisterAlone : Prop :=
  ∀ (s s' u u' : State) (t : RegNum),
    s.cfg = s'.cfg → s.mdcr = s'.mdcr → s.draws = s'.draws → t ≠ 31#5 →
    exec (.mrs t) s = .next u → exec (.mrs t) s' = .next u' → readX t u = readX t u'

/-! Rules of the whole machine. -/

/-- The register is read and written only at EL3: every step that completes was taken at EL3 (R38, R117). -/
def Obligations.OnlyEl3Completes : Prop :=
  ∀ s t : State, step s = .next t → s.el = .el3

/-- A step changes the register only by an MSR, and a general register only by an MRS that names it (R38, R90, R91; the zero
register is log 13). -/
def Obligations.OnlyItsInstructionChangesRegister : Prop :=
  ∀ s t : State, step s = .next t →
    (t.mdcr ≠ s.mdcr → ∃ r, fetch s = .ok (.msr r)) ∧
    (∀ r, readX r t ≠ readX r s → fetch s = .ok (.mrs r) ∧ r ≠ 31#5)

/-- Every step keeps the invariant: an aligned pc, a level that exists, no state in a RES0 bit, no known 0b01 in SPD32, a
program text in canonical form (R35, R41, R42, R49; log 1, log 4, log 8, log 9, log 29). -/
def Obligations.StepKeepsInvariant : Prop :=
  ∀ s t : State, s.Inv → step s = .next t → t.Inv

/-- The invariant holds after any reset of a machine whose reset entry the rules allow, and at State.reset (R44, R142;
log 2, log 3). -/
def Obligations.ResetMeetsInvariant : Prop :=
  (∀ (k : ResetKind) (into64 : Bool) (s : State),
    s.cfg.wf = true → Memory.wf s.mem = true → (resetEvent k into64 s).Inv) ∧ State.reset.Inv

/-- Along every run of steps and context synchronisation events the invariant stays, and the configuration, the Exception
level and the program text are those of the start (R13, R42, R62; log 1, log 4, log 17). The premises the spec asks of a
claim about runs are in the definition of a run, which has no other move: no write through SDCR (R39, D17, log 24), no
interrupt (D15, log 25), no debugger or other agent that writes the state (R13(c), D20, log 26). -/
def Obligations.RunKeepsInvariantAndLevel : Prop :=
  ∀ (k : Nat) (s t : State), Reaches k s t → s.Inv → t.Inv ∧ t.cfg = s.cfg ∧ t.el = s.el ∧ t.mem = s.mem

/-- On a PE without EL3 no step completes: a fetched instruction is UNDEFINED at every level the PE can be in (R92; the
spec's own derivation D18, log 29). -/
def Obligations.NothingCompletesWithoutEl3 : Prop :=
  ∀ s : State, s.Inv → s.cfg.haveEl3 = false →
    (∀ t, step s ≠ .next t) ∧
    (∀ i, fetch s = .ok i → step s = .fault (.undefined s.pc (encode i) s.el))

/-! Reset (10_state.md R44, 70_reset_and_hazards.md R142). -/

/-- What a reset leaves in every piece of state: with into64 the five fields with a defined reset value are 0, without it
they are UNKNOWN; the other seven are UNKNOWN always; nothing is pending; the pc and the level are the configuration's;
every general register is UNKNOWN (R44, R142; TTRF and NSPB are decision D10, log 23; the rest of the row is D11, log 2,
log 6; a field that does not exist holds the mark `unknown` too, log 8; the configuration, the program text and the count
of draws, which are the model's own fields, stay: log 1, log 4, log 7). -/
def Obligations.ResetLeavesStatedValues : Prop :=
  ∀ (k : ResetKind) (s : State),
    (resetEvent k true s).mdcr.edad = .known 0 ∧
    (Field.present s.cfg .sccd = true → (resetEvent k true s).mdcr.sccd = .known 0) ∧
    (Field.present s.cfg .epmad = true → (resetEvent k true s).mdcr.epmad = .known 0) ∧
    (Field.present s.cfg .ste = true → (resetEvent k true s).mdcr.ste = .known 0) ∧
    (Field.present s.cfg .spme = true → (resetEvent k true s).mdcr.spme = .known 0) ∧
    (resetEvent k false s).mdcr.sccd = .unknown ∧ (resetEvent k false s).mdcr.epmad = .unknown ∧
    (resetEvent k false s).mdcr.edad = .unknown ∧ (resetEvent k false s).mdcr.ste = .unknown ∧
    (resetEvent k false s).mdcr.spme = .unknown ∧
    knownMask s.cfg (resetEvent k true s).mdcr = fmask s.cfg &&& 0x00B6_0000 ∧
    knownMask s.cfg (resetEvent k false s).mdcr = 0 ∧
    ∀ into64,
      (resetEvent k into64 s).mdcr.ttrf = .unknown ∧ (resetEvent k into64 s).mdcr.sdd = .unknown ∧
      (resetEvent k into64 s).mdcr.spd32 = .unknown ∧ (resetEvent k into64 s).mdcr.nspb = .unknown ∧
      (resetEvent k into64 s).mdcr.tdosa = .unknown ∧ (resetEvent k into64 s).mdcr.tda = .unknown ∧
      (resetEvent k into64 s).mdcr.tpm = .unknown ∧
      (resetEvent k into64 s).pending = [] ∧ (resetEvent k into64 s).pc = s.cfg.resetPc ∧
      (resetEvent k into64 s).el = s.cfg.resetEl ∧
      (∀ t : RegNum, t ≠ 31#5 → readX t (resetEvent k into64 s) = .unknown) ∧
      (resetEvent k into64 s).cfg = s.cfg ∧ (resetEvent k into64 s).mem = s.mem ∧
      (resetEvent k into64 s).draws = s.draws

/-- State.reset is what a reset into an AArch64 level leaves, of either kind (R140, R142; the configuration FULL with its
reset entry is the model's choice, log 2; into64 is log 3). -/
def Obligations.ResetStateIsResetOfFull : Prop :=
  ∀ (k : ResetKind) (s : State), s.cfg = Config.full → s.mem = [] → s.draws = 0 → resetEvent k true s = State.reset

/-- What may be relied on after a reset with into64, before any write, of the five controls that reset to 0: SCCD, EPMAD and
EDAD restrict nothing, and STE and SPME prohibit trace and event counting in Secure state unless overridden (R144,
95_test_vectors.md 2.12). That SPME's first alternative applies where both do is the spec's own decision D9, log 21; that an
absent SCCD or EPMAD prohibits and disables nothing is the model's reading of R37, log 30. -/
def Obligations.AfterAarch64ResetControlsAreOff : Prop :=
  ∀ (k : ResetKind) (s : State) (env : Env) (c : Choice), s.cfg.haveEl3 = true →
    (∀ n, prohibitedBySccd env c (resetEvent k true s) n = false) ∧
    (∀ x, extPmuAccessDisabled env c (resetEvent k true s) x = false) ∧
    (∀ x, extDbgAccessDisabled env c (resetEvent k true s) x = false) ∧
    (s.cfg.haveTracev8p4 = true →
      traceAllowedInSecure env c (resetEvent k true s) = some env.traceOverriddenByExternalDebugger) ∧
    (s.cfg.havePmuv3 = true →
      eventCountingAllowedInSecure env c (resetEvent k true s) =
        some (!s.cfg.haveDebugv8p2 && env.externalSecureNoninvasiveDebugEnabled))

/-- After any reset none of the five trap controls can be relied on: every access that a control can trap, at every level
at which it can, is trapped under one choice and not under another (R144, 95_test_vectors.md 2.12; UNKNOWN is log 6, TTRF
and NSPB are log 23, the levels of NSPB are log 20, the debug registers are log 27 and log 28). -/
def Obligations.AfterResetTrapsAreOpen : Prop :=
  ∀ (k : ResetKind) (into64 : Bool) (s : State) (env : Env) (a : Access), s.cfg.haveEl3 = true →
    (s.cfg.haveTracev8p4 = true → a.reg ∈ traceFilterRegs → a.el = .el1 ∨ a.el = .el2 →
      (∃ c, trapsTtrf c (resetEvent k into64 s) a = true) ∧ ∃ c, trapsTtrf c (resetEvent k into64 s) a = false) ∧
    (s.cfg.haveSpe = true → a.reg ∈ s.cfg.speCtrl → a.el = .el1 ∨ a.el = .el2 →
      (∃ c, trapsNspb env c (resetEvent k into64 s) a = true) ∧
      ∃ c, trapsNspb env c (resetEvent k into64 s) a = false) ∧
    (a.reg ∈ powerdownRegs s.cfg → a.el = .el1 ∨ a.el = .el2 → trappedLower env .tdosa a = false →
      (∃ c, trapsTdosa env c (resetEvent k into64 s) a = true) ∧
      ∃ c, trapsTdosa env c (resetEvent k into64 s) a = false) ∧
    (inDebugRegs s.cfg a.reg = true ∨ a.reg ∈ osdlrRegs → a.reg ∉ powerdownRegs s.cfg → a.el ≠ .el3 →
      trappedLower env .tda a = false → env.inDebugState = false ∨ a.reg ∉ dtrRegs →
      (∃ c, trapsTda env c (resetEvent k into64 s) a = true) ∧
      ∃ c, trapsTda env c (resetEvent k into64 s) a = false) ∧
    (s.cfg.havePmuv3 = true → a.reg ∈ s.cfg.pmuRegs → a.el ≠ .el3 → trappedLower env .tpm a = false →
      (∃ c, trapsTpm env c (resetEvent k into64 s) a = true) ∧
      ∃ c, trapsTpm env c (resetEvent k into64 s) a = false)

/-! Effective values and the write-to-effect hazard (10_state.md R37, 70_reset_and_hazards.md R145). -/

/-- The Effective values the source states for a PE without EL3 (R37, first block; the sentences of EPMAD, EDAD, SPD32,
STE, SPME and NSPB), and the fields without a sentence, which take any value (the spec's own decision D23, log 22). -/
def Obligations.EffectiveValuesWithoutEl3 : Prop :=
  ∀ (env : Env) (s : State), s.cfg.haveEl3 = false →
    (s.cfg.haveEl2 = false → env.scrEl3NsEff = 0 →
      ∀ c, effEpmad env c s = 1 ∧ effEdad env c s = 1 ∧ effSpd32 env c s = 0b11) ∧
    (env.secureState = true → ∀ c, effSte env c s = 1 ∧ effSpme env c s = 1 ∧ effNspb env c s = 0b01) ∧
    (env.secureState = false → ∀ c, effNspb env c s = 0b11) ∧
    (∀ b : BitVec 1, ∃ c, effSccd c s = b ∧ effTtrf c s = b ∧ effSdd c s = b ∧ effTdosa c s = b ∧ effTda c s = b ∧
      effTpm c s = b) ∧
    (s.cfg.haveEl2 = true ∨ env.scrEl3NsEff = 1 →
      ∀ b : BitVec 2, ∃ c, effSpd32 env c s = b ∧ effEpmad env c s = b.extractLsb' 0 1 ∧
        effEdad env c s = b.extractLsb' 0 1)

/-- A behaviour rule may use the field of the current image or of any image replaced since the last context
synchronisation event, and of no other (R145; the spec's own decision D16, log 17, log 18). -/
def Obligations.BehaviourUsesImagesSinceSync : Prop :=
  ∀ (env : Env) (s : State), s.cfg.haveEl3 = true →
    (∀ c : Choice, ∃ m ∈ s.mdcr :: s.pending,
      effSccd c s = m.sccd.sample (drawnBit c) ∧ effEpmad env c s = m.epmad.sample (drawnBit c) ∧
      effEdad env c s = m.edad.sample (drawnBit c) ∧ effTtrf c s = m.ttrf.sample (drawnBit c) ∧
      effSte env c s = m.ste.sample (drawnBit c) ∧ effSpme env c s = m.spme.sample (drawnBit c) ∧
      effSdd c s = m.sdd.sample (drawnBit c) ∧ effSpd32 env c s = m.spd32.behaves c.bits ∧
      effNspb env c s = m.nspb.sample c.bits ∧ effTdosa c s = m.tdosa.sample (drawnBit c) ∧
      effTda c s = m.tda.sample (drawnBit c) ∧ effTpm c s = m.tpm.sample (drawnBit c)) ∧
    (∀ m ∈ s.mdcr :: s.pending, ∀ (d : BitVec 2) (r : Bool), ∃ n,
      effTda ⟨n, d, r⟩ s = m.tda.sample (d.extractLsb' 0 1) ∧ effTdosa ⟨n, d, r⟩ s = m.tdosa.sample (d.extractLsb' 0 1) ∧
      effTpm ⟨n, d, r⟩ s = m.tpm.sample (d.extractLsb' 0 1) ∧ effNspb env ⟨n, d, r⟩ s = m.nspb.sample d ∧
      effSpd32 env ⟨n, d, r⟩ s = m.spd32.behaves d)

/-- One MSR and a context synchronisation event settle every control: from then on every evaluation, whatever its
choices, uses the bits of the operand, the reserved SPD32 = 0b01 as 0b00 (R144, R145, R30; log 17). -/
def Obligations.MsrThenSyncSettlesEveryControl : Prop :=
  ∀ (s u : State) (t : RegNum) (w : DWord) (env : Env) (c : Choice),
    s.cfg.haveEl3 = true → readX t s = .known w → exec (.msr t) s = .next u →
    (Field.present s.cfg .sccd = true → effSccd c (contextSync u) = w.extractLsb' 23 1) ∧
    (Field.present s.cfg .epmad = true → effEpmad env c (contextSync u) = w.extractLsb' 21 1) ∧
    effEdad env c (contextSync u) = w.extractLsb' 20 1 ∧
    (Field.present s.cfg .ttrf = true → effTtrf c (contextSync u) = w.extractLsb' 19 1) ∧
    (Field.present s.cfg .ste = true → effSte env c (contextSync u) = w.extractLsb' 18 1) ∧
    (Field.present s.cfg .spme = true → effSpme env c (contextSync u) = w.extractLsb' 17 1) ∧
    effSdd c (contextSync u) = w.extractLsb' 16 1 ∧
    (Field.present s.cfg .spd32 = true →
      effSpd32 env c (contextSync u) = if w.extractLsb' 14 2 = 0b01#2 then 0b00#2 else w.extractLsb' 14 2) ∧
    (Field.present s.cfg .nspb = true → effNspb env c (contextSync u) = w.extractLsb' 12 2) ∧
    effTdosa c (contextSync u) = w.extractLsb' 10 1 ∧
    effTda c (contextSync u) = w.extractLsb' 9 1 ∧
    (Field.present s.cfg .tpm = true → effTpm c (contextSync u) = w.extractLsb' 6 1)

/-- Between the MSR and the context synchronisation event the old and the new value of TDA are both possible, and after
it the new one alone: the hazard variant of row DA-1 (95_test_vectors.md 2.9, R145; log 17). -/
def Obligations.OldOrNewTrapUntilSync : Prop :=
  ∀ (s u : State) (t : RegNum) (w : DWord) (env : Env) (a : Access),
    s.cfg.haveEl3 = true → readX t s = .known w → w.extractLsb' 9 1 = 1 → s.mdcr.tda = .known 0 →
    exec (.msr t) s = .next u →
    inDebugRegs s.cfg a.reg = true → a.reg ∉ osdlrRegs → a.reg ∉ powerdownRegs s.cfg → a.el ≠ .el3 →
    trappedLower env .tda a = false → env.inDebugState = false →
    (∃ c, trapsTda env c u a = true) ∧ (∃ c, trapsTda env c u a = false) ∧
    ∀ c, trapsTda env c (contextSync u) a = true

/-! Traps to EL3 (60_exceptions.md R102 to R106, R115, R118). -/

/-- R102, with nothing pending. -/
def Obligations.TtrfTrapsTraceFilterRegisters : Prop :=
  ∀ (s : State) (c : Choice) (a : Access) (v : BitVec 1),
    s.cfg.haveEl3 = true → s.pending = [] → s.cfg.haveTracev8p4 = true → s.mdcr.ttrf = .known v →
    (trapsTtrf c s a = true ↔ v = 1 ∧
      (a.reg = .trfcrEl2 ∨ a.reg = .trfcrEl12 ∨ a.reg = .trfcrEl1 ∨ a.reg = .htrfcr ∨ a.reg = .trfcr) ∧
      (a.el = .el1 ∨ a.el = .el2))

/-- The four rows of R103, with nothing pending: whose virtual addresses, where profiling is enabled, which accesses trap
(that the rows 0b01 and 0b11 speak of EL2 and EL1 is the spec's own decision D19, log 20). -/
def Obligations.NspbSelectsProfilingOwner : Prop :=
  ∀ (s : State) (env : Env) (c : Choice) (v : BitVec 2),
    s.cfg.haveEl3 = true → s.pending = [] → s.cfg.haveSpe = true → s.mdcr.nspb = .known v →
    (v = 0b00 ∨ v = 0b01 → bufferAddressSpace env c s = some .secureVA ∧
      profilingEnabled env c s true = some true ∧ profilingEnabled env c s false = some false) ∧
    (v = 0b10 ∨ v = 0b11 → bufferAddressSpace env c s = some .nonSecureVA ∧
      profilingEnabled env c s true = some false ∧ profilingEnabled env c s false = some true) ∧
    ∀ a : Access, trapsNspb env c s a = true ↔
      a.reg ∈ s.cfg.speCtrl ∧ (a.el = .el1 ∨ a.el = .el2) ∧
      (v = 0b00 ∨ v = 0b10 ∨ (v = 0b01 ∧ a.secure = false) ∨ (v = 0b11 ∧ a.secure = true))

/-- R104, with nothing pending. -/
def Obligations.TdosaTrapsPowerdownRegisters : Prop :=
  ∀ (s : State) (env : Env) (c : Choice) (a : Access) (v : BitVec 1),
    s.cfg.haveEl3 = true → s.pending = [] → s.mdcr.tdosa = .known v →
    (trapsTdosa env c s a = true ↔ v = 1 ∧
      (a.reg = .oslarEl1 ∨ a.reg = .oslsrEl1 ∨ a.reg = .dbgprcrEl1 ∨ a.reg = .dbgoslar ∨ a.reg = .dbgoslsr ∨
        a.reg = .dbgprcr ∨ a.reg ∈ s.cfg.tdosaImpdefRegs ∨
        ((s.cfg.haveDoublelock = true ∨ s.cfg.tdosaTrapsOsdlr = true) ∧ (a.reg = .osdlrEl1 ∨ a.reg = .dbgosdlr))) ∧
      (a.el = .el1 ∨ a.el = .el2) ∧
      ¬ ((.hdcrTdosa, a) ∈ env.lowerTraps ∨ (.mdcrEl2Tdosa, a) ∈ env.lowerTraps))

/-- R105, with nothing pending: the trap of every register but the two of the double lock, and both answers for those two
where TDOSA cannot trap them (log 28); that the five registers of the Debug state exceptions are debug registers is log 27. -/
def Obligations.TdaTrapsDebugRegisters : Prop :=
  ∀ (s : State) (env : Env) (a : Access) (v : BitVec 1),
    s.cfg.haveEl3 = true → s.pending = [] → s.mdcr.tda = .known v →
    (a.reg ≠ .osdlrEl1 → a.reg ≠ .dbgosdlr → ∀ c,
      (trapsTda env c s a = true ↔ v = 1 ∧ inDebugRegs s.cfg a.reg = true ∧ a.reg ∉ powerdownRegs s.cfg ∧
        a.el ≠ .el3 ∧
        ¬ ((.dbgdscrExtUdccdis, a) ∈ env.lowerTraps ∨ (.mdscrEl1Tdcc, a) ∈ env.lowerTraps ∨
          (.hdcrTda, a) ∈ env.lowerTraps ∨ (.mdcrEl2Tda, a) ∈ env.lowerTraps) ∧
        ¬ (env.inDebugState = true ∧
          (a.reg = .dbgdtrrxInt ∨ a.reg = .dbgdtrtxInt ∨ a.reg = .dbgdtrEl0 ∨ a.reg = .dbgdtrrxEl0 ∨
            a.reg = .dbgdtrtxEl0)))) ∧
    (a.reg = .osdlrEl1 ∨ a.reg = .dbgosdlr → a.reg ∉ powerdownRegs s.cfg → v = 1 → a.el ≠ .el3 →
      trappedLower env .tda a = false → (∃ c, trapsTda env c s a = true) ∧ ∃ c, trapsTda env c s a = false)

/-- R106, with nothing pending. -/
def Obligations.TpmTrapsPerformanceMonitors : Prop :=
  ∀ (s : State) (env : Env) (c : Choice) (a : Access) (v : BitVec 1),
    s.cfg.haveEl3 = true → s.pending = [] → s.cfg.havePmuv3 = true → s.mdcr.tpm = .known v →
    (trapsTpm env c s a = true ↔ v = 1 ∧ a.reg ∈ s.cfg.pmuRegs ∧ (a.el = .el0 ∨ a.el = .el1 ∨ a.el = .el2) ∧
      ¬ ((.hdcrTpm, a) ∈ env.lowerTraps ∨ (.mdcrEl2Tpm, a) ∈ env.lowerTraps))

/-- An access made at EL3 is never trapped by this register, whatever it holds and whatever is chosen (R118). -/
def Obligations.NoTrapAtEl3 : Prop :=
  ∀ (env : Env) (choose : Control → Choice) (s : State) (a : Access), a.el = .el3 →
    trappingControls env choose s a = [] ∧ ∀ f, attemptAccess env choose s a ≠ .fault f

/-- A trapped access ends in TrapToEL3 with exactly the controls that trap it, on a PE with EL3; a listed control of a
lower level wins over TDOSA, TDA and TPM and leaves TTRF and NSPB alone (R101, R115; the spec's own decision D14,
log 11; the per-rule reading of the lists is log 19). -/
def Obligations.TrapReportsControlsThatTrap : Prop :=
  ∀ (env : Env) (choose : Control → Choice) (s : State) (a : Access),
    (∀ ks b, attemptAccess env choose s a = .fault (.trapToEL3 ks b) ↔
      s.cfg.haveEl3 = true ∧ b = a ∧ ks ≠ [] ∧ ks = trappingControls env choose s a) ∧
    (∀ k, k ∈ trappingControls env choose s a ↔ trapsBy env (choose k) s a k = true) ∧
    (((.hdcrTdosa, a) ∈ env.lowerTraps ∨ (.mdcrEl2Tdosa, a) ∈ env.lowerTraps) →
      .tdosa ∉ trappingControls env choose s a) ∧
    (((.dbgdscrExtUdccdis, a) ∈ env.lowerTraps ∨ (.mdscrEl1Tdcc, a) ∈ env.lowerTraps ∨
      (.hdcrTda, a) ∈ env.lowerTraps ∨ (.mdcrEl2Tda, a) ∈ env.lowerTraps) →
      .tda ∉ trappingControls env choose s a) ∧
    (((.hdcrTpm, a) ∈ env.lowerTraps ∨ (.mdcrEl2Tpm, a) ∈ env.lowerTraps) →
      .tpm ∉ trappingControls env choose s a) ∧
    (∀ l, (.ttrf ∈ trappingControls { env with lowerTraps := l } choose s a ↔
        .ttrf ∈ trappingControls env choose s a) ∧
      (.nspb ∈ trappingControls { env with lowerTraps := l } choose s a ↔
        .nspb ∈ trappingControls env choose s a))

/-! Debug exceptions in Secure state (60_exceptions.md R107 to R109). -/

/-- R107, with nothing pending. -/
def Obligations.SddControlsSecureDebugExceptions : Prop :=
  ∀ (s : State) (env : Env) (v : BitVec 1),
    s.cfg.haveEl3 = true → s.pending = [] → s.mdcr.sdd = .known v →
    (¬ (env.secureState = true ∧ env.scrEl3RwEff = 1) → ∀ c el, debugExcEnabledBySdd env c s .other el = none) ∧
    (env.secureState = true → env.scrEl3RwEff = 1 →
      (v = 1 → ∀ c el, debugExcEnabledBySdd env c s .other el = some false) ∧
      (v = 0 → ∀ c, debugExcEnabledBySdd env c s .other .el0 = some true ∧
        debugExcEnabledBySdd env c s .other .el1 = some (env.mdscrEl1Kde == 1 && env.pstateD == 0)) ∧
      (v = 0 → ∀ b, (∃ c, debugExcEnabledBySdd env c s .other .el2 = some b) ∧
        ∃ c, debugExcEnabledBySdd env c s .other .el3 = some b))

/-- R108, with nothing pending; the reserved value behaves as 0b00. -/
def Obligations.Spd32ControlsSecureDebugExceptions : Prop :=
  ∀ (s : State) (env : Env) (c : Choice),
    s.cfg.haveEl3 = true → s.pending = [] →
    ((s.cfg.haveAarch32El1 = false ∨ env.secureState = false ∨ env.scrEl3RwEff = 1) →
      secureEl1DebugEnabled env c s .other = none ∧ secureEl0DebugEnabled env c s .other = none) ∧
    (s.cfg.haveAarch32El1 = true → env.secureState = true → env.scrEl3RwEff = 0 → ∀ e : Bool,
      (((s.mdcr.spd32 = .known 0b00 ∨ s.mdcr.spd32 = .reserved01) ∧ e = env.authEnablesSecureEl1Debug) ∨
        (s.mdcr.spd32 = .known 0b10 ∧ e = false) ∨ (s.mdcr.spd32 = .known 0b11 ∧ e = true)) →
      secureEl1DebugEnabled env c s .other = some e ∧
      (env.secureEl1IsAarch32 = true →
        secureEl0DebugEnabled env c s .other = some (e || env.sder32El3Suiden == 1)) ∧
      (env.secureEl1IsAarch32 = false → secureEl0DebugEnabled env c s .other = none)) ∧
    ¬ (sddApplies env = true ∧ spd32Applies env s.cfg = true)

/-- R109: no value of the register, no environment and no choice disables a Breakpoint Instruction exception. -/
def Obligations.BreakpointInstructionsAlwaysEnabled : Prop :=
  ∀ (s : State) (env : Env) (c : Choice) (el : EL),
    debugExcEnabledBySdd env c s .breakpointInstruction el = some true ∧
    secureEl1DebugEnabled env c s .breakpointInstruction = some true ∧
    secureEl0DebugEnabled env c s .breakpointInstruction = some true

/-! Counting, trace and the external debugger (60_exceptions.md R110 to R114). -/

/-- R110, with nothing pending. -/
def Obligations.SccdProhibitsCycleCounter : Prop :=
  ∀ (s : State) (env : Env) (c : Choice) (v : BitVec 1),
    s.cfg.haveEl3 = true → s.pending = [] → s.cfg.havePmuv8p5 = true → s.mdcr.sccd = .known v →
    (prohibitedBySccd env c s .pmccntrEl0 = true ↔ v = 1 ∧ env.secureState = true) ∧
    prohibitedBySccd env c s .otherCycleEvent = false

/-- R111, with nothing pending. That the first alternative applies where both conditions hold is the spec's own decision D9
(R10(e), 90_conflicts.md C3), log 21. -/
def Obligations.EpmadDisablesExternalMonitors : Prop :=
  ∀ (s : State) (env : Env) (c : Choice) (x : ExtAccess) (v : BitVec 1),
    s.cfg.haveEl3 = true → s.pending = [] → s.cfg.havePmuv3 = true → s.cfg.pmuExtDebugIf = true →
    s.mdcr.epmad = .known v → x.reg ∈ s.cfg.pmuRegs →
    (s.cfg.haveDebugv8p4 = true → (extPmuAccessDisabled env c s x = true ↔ v = 1 ∧ x.nonsecureAccess = true)) ∧
    (s.cfg.haveDebugv8p4 = false → (extPmuAccessDisabled env c s x = true ↔ v = 1 ∧ env.authOverride = false))

/-- R112, with nothing pending. That the first alternative that holds applies is the spec's own decision D9 (R10(e),
90_conflicts.md C3), and that the 0b1 row of the value table governs is its reading of two conflicts (C2, C6): log 21. -/
def Obligations.EdadDisablesExternalBreakpoints : Prop :=
  ∀ (s : State) (env : Env) (c : Choice) (x : ExtAccess) (v : BitVec 1),
    s.cfg.haveEl3 = true → s.pending = [] → s.mdcr.edad = .known v →
    (s.cfg.haveDebugv8p4 = true → (extDbgAccessDisabled env c s x = true ↔
      v = 1 ∧ x.nonsecureAccess = true ∧ (x.reg ∈ s.cfg.bpwpRegs ∨ x.reg = .oslarEl1))) ∧
    (s.cfg.haveDebugv8p4 = false → s.cfg.haveDebugv8p2 = true → (extDbgAccessDisabled env c s x = true ↔
      v = 1 ∧ env.authOverride = false ∧ (x.reg ∈ s.cfg.bpwpRegs ∨ x.reg = .oslarEl1))) ∧
    (s.cfg.haveDebugv8p4 = false → s.cfg.haveDebugv8p2 = false → (extDbgAccessDisabled env c s x = true ↔
      v = 1 ∧ env.authOverride = false ∧
        (x.reg ∈ s.cfg.bpwpRegs ∨ (x.reg = .oslarEl1 ∧ s.cfg.edadCoversOslar = true))))

/-- R113, with nothing pending. -/
def Obligations.SteControlsSecureTrace : Prop :=
  ∀ (s : State) (env : Env) (c : Choice) (v : BitVec 1),
    s.cfg.haveEl3 = true → s.pending = [] → s.cfg.haveTracev8p4 = true → s.mdcr.ste = .known v →
    (v = 0 → traceAllowedInSecure env c s = some env.traceOverriddenByExternalDebugger) ∧
    (v = 1 → traceAllowedInSecure env c s = some (!env.traceProhibitedByTrfcr))

/-- R114, with nothing pending. That the first alternative applies where both conditions hold is the spec's own decision D9
(R10(e), 90_conflicts.md C3), log 21. -/
def Obligations.SpmeControlsSecureEventCounting : Prop :=
  ∀ (s : State) (env : Env) (c : Choice) (v : BitVec 1),
    s.cfg.haveEl3 = true → s.pending = [] → s.cfg.havePmuv3 = true → s.mdcr.spme = .known v →
    (v = 1 → eventCountingAllowedInSecure env c s = some true) ∧
    (v = 0 → s.cfg.haveDebugv8p2 = true → eventCountingAllowedInSecure env c s = some false) ∧
    (v = 0 → s.cfg.haveDebugv8p2 = false →
      eventCountingAllowedInSecure env c s = some env.externalSecureNoninvasiveDebugEnabled)
end

