-- ==== Sys2Proof/Laws/State.lean ====
section
/-! SUPPORT. What each update of the state leaves in each field: one lemma per field per update. -/

namespace Sys2Proof.Machine

/-- The value `draw` draws. -/
@[simp] theorem draw_value (s : State) : (draw s).1 = Config.freeBits s.draws := rfl

@[simp] theorem draw_state_cfg (s : State) : (draw s).2.cfg = s.cfg := rfl
@[simp] theorem draw_state_mdcr (s : State) : (draw s).2.mdcr = s.mdcr := rfl
@[simp] theorem draw_state_x (s : State) : (draw s).2.x = s.x := rfl
@[simp] theorem draw_state_pc (s : State) : (draw s).2.pc = s.pc := rfl
@[simp] theorem draw_state_el (s : State) : (draw s).2.el = s.el := rfl
@[simp] theorem draw_state_pending (s : State) : (draw s).2.pending = s.pending := rfl
@[simp] theorem draw_state_mem (s : State) : (draw s).2.mem = s.mem := rfl
@[simp] theorem draw_state_draws (s : State) : (draw s).2.draws = s.draws + 1 := rfl

@[simp] theorem assignMdcr_cfg (m : Mdcr) (s : State) : (assignMdcr m s).cfg = s.cfg := rfl
@[simp] theorem assignMdcr_mdcr (m : Mdcr) (s : State) : (assignMdcr m s).mdcr = m := rfl
@[simp] theorem assignMdcr_x (m : Mdcr) (s : State) : (assignMdcr m s).x = s.x := rfl
@[simp] theorem assignMdcr_pc (m : Mdcr) (s : State) : (assignMdcr m s).pc = s.pc := rfl
@[simp] theorem assignMdcr_el (m : Mdcr) (s : State) : (assignMdcr m s).el = s.el := rfl
@[simp] theorem assignMdcr_pending (m : Mdcr) (s : State) : (assignMdcr m s).pending = s.pending ++ [s.mdcr] := rfl
@[simp] theorem assignMdcr_mem (m : Mdcr) (s : State) : (assignMdcr m s).mem = s.mem := rfl
@[simp] theorem assignMdcr_draws (m : Mdcr) (s : State) : (assignMdcr m s).draws = s.draws := rfl

@[simp] theorem destMdcr_cfg (w : DWord) (s : State) : (destMdcr w s).cfg = s.cfg := rfl
@[simp] theorem destMdcr_mdcr (w : DWord) (s : State) : (destMdcr w s).mdcr = writeValue s.cfg w := rfl
@[simp] theorem destMdcr_x (w : DWord) (s : State) : (destMdcr w s).x = s.x := rfl
@[simp] theorem destMdcr_pc (w : DWord) (s : State) : (destMdcr w s).pc = s.pc := rfl
@[simp] theorem destMdcr_el (w : DWord) (s : State) : (destMdcr w s).el = s.el := rfl
@[simp] theorem destMdcr_pending (w : DWord) (s : State) : (destMdcr w s).pending = s.pending ++ [s.mdcr] := rfl
@[simp] theorem destMdcr_mem (w : DWord) (s : State) : (destMdcr w s).mem = s.mem := rfl
@[simp] theorem destMdcr_draws (w : DWord) (s : State) : (destMdcr w s).draws = s.draws := rfl

@[simp] theorem advancePc_cfg (s : State) : (advancePc s).cfg = s.cfg := rfl
@[simp] theorem advancePc_mdcr (s : State) : (advancePc s).mdcr = s.mdcr := rfl
@[simp] theorem advancePc_x (s : State) : (advancePc s).x = s.x := rfl
@[simp] theorem advancePc_pc (s : State) : (advancePc s).pc = s.pc + 4 := rfl
@[simp] theorem advancePc_el (s : State) : (advancePc s).el = s.el := rfl
@[simp] theorem advancePc_pending (s : State) : (advancePc s).pending = s.pending := rfl
@[simp] theorem advancePc_mem (s : State) : (advancePc s).mem = s.mem := rfl
@[simp] theorem advancePc_draws (s : State) : (advancePc s).draws = s.draws := rfl

@[simp] theorem contextSync_cfg (s : State) : (contextSync s).cfg = s.cfg := rfl
@[simp] theorem contextSync_mdcr (s : State) : (contextSync s).mdcr = s.mdcr := rfl
@[simp] theorem contextSync_x (s : State) : (contextSync s).x = s.x := rfl
@[simp] theorem contextSync_pc (s : State) : (contextSync s).pc = s.pc := rfl
@[simp] theorem contextSync_el (s : State) : (contextSync s).el = s.el := rfl
@[simp] theorem contextSync_pending (s : State) : (contextSync s).pending = [] := rfl
@[simp] theorem contextSync_mem (s : State) : (contextSync s).mem = s.mem := rfl
@[simp] theorem contextSync_draws (s : State) : (contextSync s).draws = s.draws := rfl

@[simp] theorem loadProgram_cfg (base : DWord) (prog : List Word) (s : State) : (loadProgram base prog s).cfg = s.cfg := rfl
@[simp] theorem loadProgram_mdcr (base : DWord) (prog : List Word) (s : State) : (loadProgram base prog s).mdcr = s.mdcr := rfl
@[simp] theorem loadProgram_x (base : DWord) (prog : List Word) (s : State) : (loadProgram base prog s).x = s.x := rfl
@[simp] theorem loadProgram_pc (base : DWord) (prog : List Word) (s : State) : (loadProgram base prog s).pc = s.pc := rfl
@[simp] theorem loadProgram_el (base : DWord) (prog : List Word) (s : State) : (loadProgram base prog s).el = s.el := rfl
@[simp] theorem loadProgram_pending (base : DWord) (prog : List Word) (s : State) : (loadProgram base prog s).pending = s.pending := rfl
@[simp] theorem loadProgram_mem (base : DWord) (prog : List Word) (s : State) : (loadProgram base prog s).mem = Memory.writeBytes [] base.toNat (programBytes prog) := rfl
@[simp] theorem loadProgram_draws (base : DWord) (prog : List Word) (s : State) : (loadProgram base prog s).draws = s.draws := rfl

@[simp] theorem resetEvent_cfg (k : ResetKind) (b : Bool) (s : State) : (resetEvent k b s).cfg = s.cfg := rfl
@[simp] theorem resetEvent_mdcr (k : ResetKind) (b : Bool) (s : State) : (resetEvent k b s).mdcr = resetImage s.cfg b := rfl
@[simp] theorem resetEvent_x (k : ResetKind) (b : Bool) (s : State) : (resetEvent k b s).x = Vector.replicate 31 .unknown := rfl
@[simp] theorem resetEvent_pc (k : ResetKind) (b : Bool) (s : State) : (resetEvent k b s).pc = s.cfg.resetPc := rfl
@[simp] theorem resetEvent_el (k : ResetKind) (b : Bool) (s : State) : (resetEvent k b s).el = s.cfg.resetEl := rfl
@[simp] theorem resetEvent_pending (k : ResetKind) (b : Bool) (s : State) : (resetEvent k b s).pending = [] := rfl
@[simp] theorem resetEvent_mem (k : ResetKind) (b : Bool) (s : State) : (resetEvent k b s).mem = s.mem := rfl
@[simp] theorem resetEvent_draws (k : ResetKind) (b : Bool) (s : State) : (resetEvent k b s).draws = s.draws := rfl

@[simp] theorem withFetchWord_cfg (n w : Nat) (s : State) : (s.withFetchWord n w).cfg = s.cfg := rfl
@[simp] theorem withFetchWord_mdcr (n w : Nat) (s : State) : (s.withFetchWord n w).mdcr = s.mdcr := rfl
@[simp] theorem withFetchWord_x (n w : Nat) (s : State) : (s.withFetchWord n w).x = s.x := rfl
@[simp] theorem withFetchWord_pc (n w : Nat) (s : State) : (s.withFetchWord n w).pc = s.pc := rfl
@[simp] theorem withFetchWord_el (n w : Nat) (s : State) : (s.withFetchWord n w).el = s.el := rfl
@[simp] theorem withFetchWord_pending (n w : Nat) (s : State) : (s.withFetchWord n w).pending = s.pending := rfl
@[simp] theorem withFetchWord_mem (n w : Nat) (s : State) : (s.withFetchWord n w).mem = Memory.writeBytes s.mem s.pc.toNat (bytesOfWord (tableWord n w)) := rfl
@[simp] theorem withFetchWord_draws (n w : Nat) (s : State) : (s.withFetchWord n w).draws = s.draws := rfl

@[simp] theorem writeX_cfg (t : RegNum) (v : DWord) (s : State) : (writeX t v s).cfg = s.cfg := by
  unfold writeX
  split <;> rfl
@[simp] theorem writeX_mdcr (t : RegNum) (v : DWord) (s : State) : (writeX t v s).mdcr = s.mdcr := by
  unfold writeX
  split <;> rfl
@[simp] theorem writeX_pc (t : RegNum) (v : DWord) (s : State) : (writeX t v s).pc = s.pc := by
  unfold writeX
  split <;> rfl
@[simp] theorem writeX_el (t : RegNum) (v : DWord) (s : State) : (writeX t v s).el = s.el := by
  unfold writeX
  split <;> rfl
@[simp] theorem writeX_pending (t : RegNum) (v : DWord) (s : State) : (writeX t v s).pending = s.pending := by
  unfold writeX
  split <;> rfl
@[simp] theorem writeX_mem (t : RegNum) (v : DWord) (s : State) : (writeX t v s).mem = s.mem := by
  unfold writeX
  split <;> rfl
@[simp] theorem writeX_draws (t : RegNum) (v : DWord) (s : State) : (writeX t v s).draws = s.draws := by
  unfold writeX
  split <;> rfl

end Sys2Proof.Machine
end

