-- ==== Sys2Proof/Laws/Behaviour.lean ====
section
/-! SUPPORT. Effective values: what an evaluation can use. -/

namespace Sys2Proof.Machine

/-- An evaluation uses the current image or one replaced since the last context synchronisation event. -/
theorem chosenImage_mem (c : Choice) (s : State) : chosenImage c s = s.mdcr ∨ chosenImage c s ∈ s.pending := by
  rw [← List.mem_cons]
  unfold chosenImage
  rw [List.getD_eq_getElem?_getD]
  rcases Nat.lt_or_ge c.image (s.mdcr :: s.pending).length with h | h
  · rw [List.getElem?_eq_getElem h]
    exact List.getElem_mem h
  · rw [List.getElem?_eq_none h]
    exact List.mem_cons_self

/-- Any of those images can be chosen. -/
theorem exists_choice_of_mem {s : State} {m : Mdcr} (h : m = s.mdcr ∨ m ∈ s.pending) (b : BitVec 2) (r : Bool) :
    ∃ n, chosenImage ⟨n, b, r⟩ s = m := by
  rw [← List.mem_cons] at h
  obtain ⟨n, hn, e⟩ := List.getElem_of_mem h
  exact ⟨n, by simp [chosenImage, List.getD_eq_getElem?_getD, List.getElem?_eq_getElem hn, e]⟩

/-- With nothing pending, an evaluation uses the current image. -/
theorem chosenImage_of_pending_nil (c : Choice) {s : State} (h : s.pending = []) : chosenImage c s = s.mdcr := by
  rcases chosenImage_mem c s with e | e
  · exact e
  · simp [h] at e

/-- Where EL3 exists, the Effective value is the stored one. -/
theorem effective_of_el3 {n : Nat} {cfg : Config} (h : cfg.haveEl3 = true) (o : Option (BitVec n)) (v d : BitVec n) :
    effective cfg o v d = v := by
  simp [effective, h]

/-- Where EL3 is absent and a sentence of the source applies, the Effective value is the one it states. -/
theorem effective_of_sentence {n : Nat} {cfg : Config} (h : cfg.haveEl3 = false) (x v d : BitVec n) :
    effective cfg (some x) v d = x := by
  simp [effective, h]

/-- Where EL3 is absent and no sentence applies, the Effective value is a drawn one. -/
theorem effective_of_none {n : Nat} {cfg : Config} (h : cfg.haveEl3 = false) (v d : BitVec n) :
    effective cfg none v d = d := by
  simp [effective, h]

/-- The drawn value of a one-bit field is any value. -/
theorem drawnBit_append (n : Nat) (h b : BitVec 1) (r : Bool) : drawnBit ⟨n, h ++ b, r⟩ = b := by
  change (h ++ b).extractLsb' 0 1 = b
  revert h b
  decide

end Sys2Proof.Machine
end

