-- ==== Sys2Proof/Laws/Encoding.lean ====
section
/-! SUPPORT. The format SYSREG loses no bit: fields to word and back, word to bytes and back. -/

namespace Sys2Proof

/-- Every instruction term has a register number the format can hold. -/
theorem Instr.wf_true (i : Instr) : i.wf = true := by
  cases i with
  | mrs t => exact decide_eq_true t.isLt
  | msr t => exact decide_eq_true t.isLt

/-- The fields of the word of some fields are those fields. -/
@[simp] theorem SysregWord.split_join (f : SysregWord) : SysregWord.split f.join = f := by
  obtain ⟨a, b, c, d, e, g, h, t⟩ := f
  simp only [SysregWord.split, SysregWord.join, SysregWord.mk.injEq]
  refine ⟨?_, ?_, ?_, ?_, ?_, ?_, ?_, ?_⟩ <;>
    (apply BitVec.eq_of_getLsbD_eq; intro i hi; interval_cases i <;>
      simp only [BitVec.getLsbD_extractLsb', BitVec.getLsbD_append] <;> simp)

/-- The word of the fields of a word is that word. -/
@[simp] theorem SysregWord.join_split (w : Word) : (SysregWord.split w).join = w := by
  apply BitVec.eq_of_getLsbD_eq
  intro i hi
  interval_cases i <;>
    simp only [SysregWord.split, SysregWord.join, BitVec.getLsbD_append, BitVec.getLsbD_extractLsb'] <;> simp

/-- The word of the bytes of a word is that word. -/
theorem wordOfBytes_bytesOfWord (w : Word) :
    wordOfBytes (w.extractLsb' 0 8) (w.extractLsb' 8 8) (w.extractLsb' 16 8) (w.extractLsb' 24 8) = w := by
  apply BitVec.eq_of_getLsbD_eq
  intro i hi
  interval_cases i <;>
    simp only [wordOfBytes, BitVec.getLsbD_append, BitVec.getLsbD_extractLsb'] <;> simp

/-- The bytes of the word of four bytes are those bytes. -/
theorem bytesOfWord_wordOfBytes (b0 b1 b2 b3 : Byte) : bytesOfWord (wordOfBytes b0 b1 b2 b3) = [b0, b1, b2, b3] := by
  simp only [bytesOfWord, List.cons.injEq, and_true]
  refine ⟨?_, ?_, ?_, ?_⟩ <;>
    (apply BitVec.eq_of_getLsbD_eq; intro i hi; interval_cases i <;>
      simp only [wordOfBytes, BitVec.getLsbD_extractLsb', BitVec.getLsbD_append] <;> simp)

end Sys2Proof
end

