-- ==== Sys2Proof/Laws/Memory.lean ====
section
/-! SUPPORT. The laws of the program text: read after write, and the canonical form. -/

namespace Sys2Proof.Machine

/-- The byte written is the byte read. -/
theorem Memory.read_write_same (mem : List Host.Cell) (a : Nat) (v : Byte) :
    Memory.read (Memory.write mem a v) a = some v := by
  induction mem with
  | nil => simp [Memory.write, Memory.read]
  | cons c rest ih =>
    obtain ⟨b, w⟩ := c
    simp only [Memory.write]
    split
    · simp [Memory.read]
    · split
      · simp [Memory.read]
      · simp only [Memory.read]
        split
        · omega
        · exact ih

/-- A write leaves every other address alone. -/
theorem Memory.read_write_other {mem : List Host.Cell} {a b : Nat} (h : b ≠ a) (v : Byte) :
    Memory.read (Memory.write mem a v) b = Memory.read mem b := by
  induction mem with
  | nil => simp [Memory.write, Memory.read, Ne.symm h]
  | cons c rest ih =>
    obtain ⟨d, w⟩ := c
    simp only [Memory.write]
    split
    · simp [Memory.read, Ne.symm h]
    · split
      · rename_i e
        subst e
        simp [Memory.read, Ne.symm h]
      · simp only [Memory.read, ih]

theorem Memory.risesFrom_write {mem : List Host.Cell} {low a : Nat} (v : Byte)
    (hlow : low ≤ a) (ha : a < 2 ^ 64) (h : Memory.risesFrom low mem = true) :
    Memory.risesFrom low (Memory.write mem a v) = true := by
  induction mem generalizing low with
  | nil => simp [Memory.write, Memory.risesFrom]; omega
  | cons c rest ih =>
    obtain ⟨d, w⟩ := c
    simp only [Memory.risesFrom, Bool.and_eq_true, decide_eq_true_eq] at h
    simp only [Memory.write]
    split
    · simp only [Memory.risesFrom, Bool.and_eq_true, decide_eq_true_eq]
      exact ⟨⟨hlow, ha⟩, ⟨by omega, h.1.2⟩, h.2⟩
    · split
      · rename_i e
        subst e
        simp only [Memory.risesFrom, Bool.and_eq_true, decide_eq_true_eq]
        exact ⟨⟨hlow, ha⟩, h.2⟩
      · simp only [Memory.risesFrom, Bool.and_eq_true, decide_eq_true_eq]
        exact ⟨h.1, ih (by omega) h.2⟩

/-- A write keeps the canonical form. -/
theorem Memory.wf_write {mem : List Host.Cell} {a : Nat} (v : Byte) (ha : a < 2 ^ 64)
    (h : Memory.wf mem = true) : Memory.wf (Memory.write mem a v) = true :=
  Memory.risesFrom_write v (Nat.zero_le a) ha h

/-- Writing bytes keeps the canonical form. -/
theorem Memory.wf_writeBytes {mem : List Host.Cell} (h : Memory.wf mem = true) (bs : List Byte) (a : Nat) :
    Memory.wf (Memory.writeBytes mem a bs) = true := by
  induction bs generalizing a with
  | nil => exact h
  | cons b rest ih =>
    simp only [Memory.writeBytes]
    split
    · rename_i ha
      exact Memory.wf_write b ha (ih (a + 1))
    · exact h

/-- What a byte reads as after bytes were written that all have an address. -/
theorem Memory.read_writeBytes {mem : List Host.Cell} (bs : List Byte) (a b : Nat) (hfit : a + bs.length ≤ 2 ^ 64) :
    Memory.read (Memory.writeBytes mem a bs) b =
      if a ≤ b then (match bs[b - a]? with | some v => some v | none => Memory.read mem b) else Memory.read mem b := by
  induction bs generalizing a with
  | nil => simp [Memory.writeBytes]
  | cons v rest ih =>
    simp only [List.length_cons] at hfit
    simp only [Memory.writeBytes]
    rw [if_pos (by omega)]
    by_cases hb : b = a
    · subst hb
      simp [Memory.read_write_same]
    · rw [Memory.read_write_other hb, ih (a + 1) (by omega)]
      by_cases hab : a ≤ b
      · have h1 : a + 1 ≤ b := by omega
        have h2 : b - a = (b - (a + 1)) + 1 := by omega
        simp [hab, h1, h2]
      · simp [hab, show ¬ a + 1 ≤ b by omega]

/-- The text of a loaded program is in canonical form. -/
theorem loadProgram_wf (base : DWord) (prog : List Word) (s : State) :
    Memory.wf (loadProgram base prog s).mem = true :=
  Memory.wf_writeBytes (mem := []) rfl _ _

/-- Placing one instruction keeps the canonical form. -/
theorem withFetchWord_wf {s : State} (h : Memory.wf s.mem = true) (n w : Nat) :
    Memory.wf (s.withFetchWord n w).mem = true :=
  Memory.wf_writeBytes h _ _

/-- The program text at reset is in canonical form. -/
theorem reset_mem_wf : Memory.wf State.reset.mem = true := rfl

/-- A program of n words has 4n bytes. -/
@[simp] theorem programBytes_length (prog : List Word) : (programBytes prog).length = 4 * prog.length := by
  induction prog with
  | nil => rfl
  | cons w rest ih => simp [programBytes, bytesOfWord, ih]; omega

end Sys2Proof.Machine
end

