-- ==== Sys2Proof/Laws/Registers.lean ====
section
/-! SUPPORT. Reading and writing the general registers, and what an instruction's operands are. -/

namespace Sys2Proof.Machine

/-- The zero register reads as zero. -/
@[simp] theorem readX_zr (s : State) : readX 31#5 s = .known 0 := by
  simp [readX]

/-- The zero register discards a write. -/
@[simp] theorem writeX_zr (v : DWord) (s : State) : writeX 31#5 v s = s := by
  simp [writeX]

theorem regNum_lt_of_ne {t : RegNum} (h : t ≠ 31#5) : t.toNat < 31 := by
  have : t.toNat ≠ 31 := fun e => h (by apply BitVec.eq_of_toNat_eq; simpa using e)
  omega

/-- A general register holds what was written to it. -/
theorem readX_writeX_same {t : RegNum} (h : t ≠ 31#5) (v : DWord) (s : State) :
    readX t (writeX t v s) = .known v := by
  have := regNum_lt_of_ne h
  simp [readX, writeX, this]

/-- A write of one register leaves every other one alone. -/
theorem readX_writeX_other {t u : RegNum} (h : u ≠ t) (v : DWord) (s : State) :
    readX u (writeX t v s) = readX u s := by
  have hne : t.toNat ≠ u.toNat := fun e => h (BitVec.eq_of_toNat_eq e.symm)
  unfold readX writeX
  split
  · split
    · simp [Vector.getElem_set_ne, hne]
    · rfl
  · rfl

/-- The general registers are read from the field `x` alone. -/
theorem readX_congr {s u : State} (h : s.x = u.x) (t : RegNum) : readX t s = readX t u := by
  simp [readX, h]

/-- Reading a source register changes nothing but, where the register is `unknown`, the count of drawn values. -/
theorem sourceX_state (t : RegNum) (s : State) :
    (sourceX t s).2 = s ∨ (readX t s = .unknown ∧ (sourceX t s).2 = (draw s).2) := by
  unfold sourceX
  split
  · exact .inl rfl
  · rename_i h
    exact .inr ⟨h, rfl⟩

/-- The value of a source register that is known. -/
theorem sourceX_known {t : RegNum} {s : State} {v : DWord} (h : readX t s = .known v) : sourceX t s = (v, s) := by
  simp [sourceX, h]

/-- The value of a source register that is `unknown` is a free value. -/
theorem sourceX_unknown {t : RegNum} {s : State} (h : readX t s = .unknown) : sourceX t s = draw s := by
  simp [sourceX, h]

/-- What reading MDCR_EL3 yields. -/
theorem sourceMdcr_eq (s : State) :
    sourceMdcr s = (readValue s.cfg s.mdcr (Config.freeBits s.draws), (draw s).2) := rfl

end Sys2Proof.Machine
end

