-- ==== Sys2Proof/Laws/Ops.lean ====
section
/-! SUPPORT. What each shared operation can answer, said once. -/

namespace Sys2Proof.Machine

/-- Completing answers a next state exactly where the pc can advance. -/
theorem complete_eq_next_iff {s t : State} : complete s = .next t ↔ s.pc ≠ topPc ∧ t = advancePc s := by
  unfold complete
  split
  · simp_all
  · simp_all [eq_comm]

/-- Completing never faults. -/
theorem complete_ne_fault (s : State) (f : Fault) : complete s ≠ .fault f := by
  unfold complete
  split <;> simp

/-- The access pseudocode answers a next state only at EL3, and then that of the access. -/
theorem onlyAtEL3_eq_next_iff {i : Instr} {s t : State} {o : Outcome} :
    onlyAtEL3 i s o = .next t ↔ s.el = .el3 ∧ o = .next t := by
  unfold onlyAtEL3
  split <;> simp_all [raiseUndefined]

/-- At EL3 the access pseudocode answers what the access answers. -/
theorem onlyAtEL3_of_el3 {i : Instr} {s : State} (h : s.el = .el3) (o : Outcome) : onlyAtEL3 i s o = o := by
  simp [onlyAtEL3, h]

/-- Below EL3 the access pseudocode is UNDEFINED. -/
theorem onlyAtEL3_of_ne_el3 {i : Instr} {s : State} (h : s.el ≠ .el3) (o : Outcome) :
    onlyAtEL3 i s o = raiseUndefined i s := by
  unfold onlyAtEL3
  split <;> simp_all

/-- What fetching an instruction takes: an aligned pc below the top, and four bytes that decode to it. -/
theorem fetch_eq_ok_iff {s : State} {i : Instr} :
    fetch s = .ok i ↔ s.pc.toNat % 4 = 0 ∧ s.pc ≠ topPc ∧
      ∃ rest, decodeBytes (Memory.readWord s.mem s.pc.toNat) = .instr i rest := by
  unfold fetch
  split
  · simp_all
  · split
    · simp_all
    · split <;> simp_all

/-- A step is the execution of the fetched instruction, or a refusal. -/
theorem step_of_fetch {s : State} {i : Instr} (h : fetch s = .ok i) : step s = exec i s := by
  simp [step, h]

/-- A step that answers no refusal ran a fetched instruction. -/
theorem step_eq_next {s t : State} (h : step s = .next t) : ∃ i, fetch s = .ok i ∧ exec i s = .next t := by
  unfold step at h
  split at h
  · exact ⟨_, ‹_›, h⟩
  · simp at h

/-- A word of the program text that has all its bytes. -/
theorem Memory.readWord_eq {mem : List Host.Cell} {a : Nat} {b0 b1 b2 b3 : Byte}
    (h0 : Memory.read mem a = some b0) (h1 : Memory.read mem (a + 1) = some b1)
    (h2 : Memory.read mem (a + 2) = some b2) (h3 : Memory.read mem (a + 3) = some b3) :
    Memory.readWord mem a = [b0, b1, b2, b3] := by
  simp [Memory.readWord, h0, h1, h2, h3]

end Sys2Proof.Machine
end

