-- ==== Sys2Proof/Laws/PerInstr.lean ====
section
/-! SUPPORT. What holds of every instruction as syntax: one lemma per constructor. -/

namespace Sys2Proof.Laws

/-- The table's `match` of an instruction's row (30_encoding.md R75, spec/opcode_table.json). -/
def tableMatch : Instr → Word
  | .mrs _ => 0xD53E1320
  | .msr _ => 0xD51E1320

/-- The register number of an instruction. -/
def rtOf : Instr → RegNum
  | .mrs t => t
  | .msr t => t

/-- The word of an instruction has its row's fixed bits under the row's mask, the register number in bits [4:0], and
decodes to the instruction. -/
def FixedBits.Statement (i : Instr) : Prop :=
  encode i &&& 0xFFFFFFE0 = tableMatch i ∧ (encode i).extractLsb' 0 5 = rtOf i ∧ decodeWord (encode i) = some i

theorem FixedBits.mrs (t : RegNum) : FixedBits.Statement (.mrs t) := by
  unfold FixedBits.Statement
  revert t
  decide

theorem FixedBits.msr (t : RegNum) : FixedBits.Statement (.msr t) := by
  unfold FixedBits.Statement
  revert t
  decide

end Sys2Proof.Laws
end

