-- ==== Sys2Proof/Laws/Register.lean ====
section
/-! SUPPORT. Where each field stands in the value a read returns (10_state.md R21, R48). -/

namespace Sys2Proof.Machine

/-- The bits of a field's mask under `cfg`. -/
theorem Field.maskIn_getLsbD (cfg : Config) (f : Field) (i : Nat) :
    (Field.maskIn cfg f).getLsbD i = (f.present cfg && f.mask.getLsbD i) := by
  unfold Field.maskIn
  cases f.present cfg <;> simp

/-- The bits of the mask of a field that may be known. -/
theorem Field.knownMaskIn_getLsbD (cfg : Config) (f : Field) (k : Bool) (i : Nat) :
    (Field.knownMaskIn cfg f k).getLsbD i = (f.present cfg && k && f.mask.getLsbD i) := by
  unfold Field.knownMaskIn
  cases f.present cfg <;> cases k <;> simp

/-- A bit of a one-value field in a read: the stored bit where the field exists and is known, else the drawn one. -/
theorem FieldVal.readBits_getLsbD {n : Nat} (b : Bool) (f : FieldVal n) (d : BitVec n) (i : Nat) :
    (f.readBits b d).getLsbD i =
      ((b && f.isKnown && (f.readBits b 0).getLsbD i) || (!(b && f.isKnown) && d.getLsbD i)) := by
  cases b <;> cases f <;> simp [FieldVal.readBits, FieldVal.sample, FieldVal.isKnown]

/-- A bit of SPD32 in a read. -/
theorem Spd32Val.readBits_getLsbD (b : Bool) (f : Spd32Val) (d : BitVec 2) (i : Nat) :
    (f.readBits b d).getLsbD i =
      ((b && f.isKnown && (f.readBits b 0).getLsbD i) || (!(b && f.isKnown) && d.getLsbD i)) := by
  cases b <;> cases f <;> simp [Spd32Val.readBits, Spd32Val.sample, Spd32Val.isKnown]

/-- What a read shows of a one-value field that was just written. -/
theorem FieldVal.readBits_written {n : Nat} (b : Bool) (v d : BitVec n) :
    (FieldVal.written b v).readBits b d = if b then v else d := by
  cases b <;> simp [FieldVal.readBits, FieldVal.written, FieldVal.sample]

/-- What a read shows of SPD32 when it was just written. -/
theorem Spd32Val.readBits_written (b : Bool) (v d : BitVec 2) :
    (Spd32Val.written b v).readBits b d = if b && v ≠ 0b01#2 then v else d := by
  cases b
  · simp [Spd32Val.readBits]
  · by_cases h : v = 0b01#2 <;> simp [Spd32Val.readBits, Spd32Val.written, Spd32Val.sample, h]

/-- SCCD in a read. -/
theorem readValue_sccd (cfg : Config) (m : Mdcr) (d : DWord) :
    (readValue cfg m d).extractLsb' 23 1 = m.sccd.readBits (Field.sccd.present cfg) (d.extractLsb' 23 1) := by
  apply BitVec.eq_of_getLsbD_eq
  intro i hi
  interval_cases i
  simp only [readValue, BitVec.getLsbD_extractLsb', BitVec.getLsbD_append]
  simp

/-- EPMAD in a read. -/
theorem readValue_epmad (cfg : Config) (m : Mdcr) (d : DWord) :
    (readValue cfg m d).extractLsb' 21 1 = m.epmad.readBits (Field.epmad.present cfg) (d.extractLsb' 21 1) := by
  apply BitVec.eq_of_getLsbD_eq
  intro i hi
  interval_cases i
  simp only [readValue, BitVec.getLsbD_extractLsb', BitVec.getLsbD_append]
  simp

/-- EDAD in a read. -/
theorem readValue_edad (cfg : Config) (m : Mdcr) (d : DWord) :
    (readValue cfg m d).extractLsb' 20 1 = m.edad.readBits (Field.edad.present cfg) (d.extractLsb' 20 1) := by
  apply BitVec.eq_of_getLsbD_eq
  intro i hi
  interval_cases i
  simp only [readValue, BitVec.getLsbD_extractLsb', BitVec.getLsbD_append]
  simp

/-- TTRF in a read. -/
theorem readValue_ttrf (cfg : Config) (m : Mdcr) (d : DWord) :
    (readValue cfg m d).extractLsb' 19 1 = m.ttrf.readBits (Field.ttrf.present cfg) (d.extractLsb' 19 1) := by
  apply BitVec.eq_of_getLsbD_eq
  intro i hi
  interval_cases i
  simp only [readValue, BitVec.getLsbD_extractLsb', BitVec.getLsbD_append]
  simp

/-- STE in a read. -/
theorem readValue_ste (cfg : Config) (m : Mdcr) (d : DWord) :
    (readValue cfg m d).extractLsb' 18 1 = m.ste.readBits (Field.ste.present cfg) (d.extractLsb' 18 1) := by
  apply BitVec.eq_of_getLsbD_eq
  intro i hi
  interval_cases i
  simp only [readValue, BitVec.getLsbD_extractLsb', BitVec.getLsbD_append]
  simp

/-- SPME in a read. -/
theorem readValue_spme (cfg : Config) (m : Mdcr) (d : DWord) :
    (readValue cfg m d).extractLsb' 17 1 = m.spme.readBits (Field.spme.present cfg) (d.extractLsb' 17 1) := by
  apply BitVec.eq_of_getLsbD_eq
  intro i hi
  interval_cases i
  simp only [readValue, BitVec.getLsbD_extractLsb', BitVec.getLsbD_append]
  simp

/-- SDD in a read. -/
theorem readValue_sdd (cfg : Config) (m : Mdcr) (d : DWord) :
    (readValue cfg m d).extractLsb' 16 1 = m.sdd.readBits (Field.sdd.present cfg) (d.extractLsb' 16 1) := by
  apply BitVec.eq_of_getLsbD_eq
  intro i hi
  interval_cases i
  simp only [readValue, BitVec.getLsbD_extractLsb', BitVec.getLsbD_append]
  simp

/-- SPD32 in a read. -/
theorem readValue_spd32 (cfg : Config) (m : Mdcr) (d : DWord) :
    (readValue cfg m d).extractLsb' 14 2 = m.spd32.readBits (Field.spd32.present cfg) (d.extractLsb' 14 2) := by
  apply BitVec.eq_of_getLsbD_eq
  intro i hi
  interval_cases i <;> simp only [readValue, BitVec.getLsbD_extractLsb', BitVec.getLsbD_append] <;> simp

/-- NSPB in a read. -/
theorem readValue_nspb (cfg : Config) (m : Mdcr) (d : DWord) :
    (readValue cfg m d).extractLsb' 12 2 = m.nspb.readBits (Field.nspb.present cfg) (d.extractLsb' 12 2) := by
  apply BitVec.eq_of_getLsbD_eq
  intro i hi
  interval_cases i <;> simp only [readValue, BitVec.getLsbD_extractLsb', BitVec.getLsbD_append] <;> simp

/-- TDOSA in a read. -/
theorem readValue_tdosa (cfg : Config) (m : Mdcr) (d : DWord) :
    (readValue cfg m d).extractLsb' 10 1 = m.tdosa.readBits (Field.tdosa.present cfg) (d.extractLsb' 10 1) := by
  apply BitVec.eq_of_getLsbD_eq
  intro i hi
  interval_cases i
  simp only [readValue, BitVec.getLsbD_extractLsb', BitVec.getLsbD_append]
  simp

/-- TDA in a read. -/
theorem readValue_tda (cfg : Config) (m : Mdcr) (d : DWord) :
    (readValue cfg m d).extractLsb' 9 1 = m.tda.readBits (Field.tda.present cfg) (d.extractLsb' 9 1) := by
  apply BitVec.eq_of_getLsbD_eq
  intro i hi
  interval_cases i
  simp only [readValue, BitVec.getLsbD_extractLsb', BitVec.getLsbD_append]
  simp

/-- TPM in a read. -/
theorem readValue_tpm (cfg : Config) (m : Mdcr) (d : DWord) :
    (readValue cfg m d).extractLsb' 6 1 = m.tpm.readBits (Field.tpm.present cfg) (d.extractLsb' 6 1) := by
  apply BitVec.eq_of_getLsbD_eq
  intro i hi
  interval_cases i
  simp only [readValue, BitVec.getLsbD_extractLsb', BitVec.getLsbD_append]
  simp

/-- The RES0 bits [63:24] in a read: the drawn ones. -/
theorem readValue_bits63to24 (cfg : Config) (m : Mdcr) (d : DWord) :
    (readValue cfg m d).extractLsb' 24 40 = d.extractLsb' 24 40 := by
  apply BitVec.eq_of_getLsbD_eq
  intro i hi
  interval_cases i <;> simp only [readValue, BitVec.getLsbD_extractLsb', BitVec.getLsbD_append] <;> simp

/-- The RES0 bits [22:22] in a read: the drawn ones. -/
theorem readValue_bit22 (cfg : Config) (m : Mdcr) (d : DWord) :
    (readValue cfg m d).extractLsb' 22 1 = d.extractLsb' 22 1 := by
  apply BitVec.eq_of_getLsbD_eq
  intro i hi
  interval_cases i
  simp only [readValue, BitVec.getLsbD_extractLsb', BitVec.getLsbD_append]
  simp

/-- The RES0 bits [11:11] in a read: the drawn ones. -/
theorem readValue_bit11 (cfg : Config) (m : Mdcr) (d : DWord) :
    (readValue cfg m d).extractLsb' 11 1 = d.extractLsb' 11 1 := by
  apply BitVec.eq_of_getLsbD_eq
  intro i hi
  interval_cases i
  simp only [readValue, BitVec.getLsbD_extractLsb', BitVec.getLsbD_append]
  simp

/-- The RES0 bits [8:7] in a read: the drawn ones. -/
theorem readValue_bits8to7 (cfg : Config) (m : Mdcr) (d : DWord) :
    (readValue cfg m d).extractLsb' 7 2 = d.extractLsb' 7 2 := by
  apply BitVec.eq_of_getLsbD_eq
  intro i hi
  interval_cases i <;> simp only [readValue, BitVec.getLsbD_extractLsb', BitVec.getLsbD_append] <;> simp

/-- The RES0 bits [5:0] in a read: the drawn ones. -/
theorem readValue_bits5to0 (cfg : Config) (m : Mdcr) (d : DWord) :
    (readValue cfg m d).extractLsb' 0 6 = d.extractLsb' 0 6 := by
  apply BitVec.eq_of_getLsbD_eq
  intro i hi
  interval_cases i <;> simp only [readValue, BitVec.getLsbD_extractLsb', BitVec.getLsbD_append] <;> simp

end Sys2Proof.Machine
end

