-- ==== Sys2Proof/Tests/Slice0.lean ====
section
/-! SUPPORT. Tests against 95_test_vectors.md, and one witness for every obligation that has hypotheses. A test named
`test_<what>` compares with a value the spec writes out; one named `test_meets_<Obligation>` shows that the hypotheses of
that obligation are met together, at the boundary values of their ranges. -/

namespace Sys2Proof.Tests

open Sys2Proof Sys2Proof.Machine

/-! Encoding: words written out bit by bit from the format of 30_encoding.md R71. -/

/-- 95_test_vectors.md 2.1 rows E3, E5, E8, E9 as bit strings: fixed, L, op0, op1, CRn, CRm, op2, Rt. -/
theorem test_decode_words_written_out :
    decodeWord (0b1101010100#10 ++ 0b1#1 ++ 0b11#2 ++ 0b110#3 ++ 0b0001#4 ++ 0b0011#4 ++ 0b001#3 ++ 0b00101#5) =
      some (.mrs 5) ∧
    decodeWord 0b11010101001111100001001100111111 = some (.mrs 31) ∧
    decodeWord 0b11010101000111100001001100110001 = some (.msr 17) ∧
    decodeWord (0b1101010100#10 ++ 0b0#1 ++ 0b11#2 ++ 0b110#3 ++ 0b0001#4 ++ 0b0011#4 ++ 0b001#3 ++ 0b11111#5) =
      some (.msr 31) := by decide

/-- Rows E1 and E6 as bytes in memory order. -/
theorem test_decode_bytes :
    decodeBytes [0x20, 0x13, 0x3E, 0xD5] = .instr (.mrs 0) [] ∧
    decodeBytes [0x20, 0x13, 0x1E, 0xD5, 0x21] = .instr (.msr 0) [0x21] ∧
    decodeBytes [0x20, 0x13, 0x3E] = .truncated := by decide

/-- Rows E13 to E21: one field off, and the two constant words. -/
theorem test_words_out_of_scope :
    decodeWord 0xD53E1300 = none ∧ decodeWord 0xD53E1340 = none ∧ decodeWord 0xD53C1320 = none ∧
    decodeWord 0xD53E1120 = none ∧ decodeWord 0xD53E2320 = none ∧ decodeWord 0xD5361320 = none ∧
    decodeWord 0xD57E1320 = none ∧ decodeWord 0 = none ∧ decodeWord 0xFFFFFFFF = none := by decide

/-- Rows E4 and E7. -/
theorem test_encode :
    encode (.mrs 30) = 0xD53E133E ∧ encode (.msr 1) = 0xD51E1321 ∧ encodeBytes (.mrs 30) = [0x3E, 0x13, 0x3E, 0xD5] := by
  decide

/-- The two rows of opcode_table.json with t = 0. -/
theorem test_table_words :
    decodeTableWord 32 0xD53E1320 = some (.mrs 0) ∧ decodeTableWord 32 0xD51E1320 = some (.msr 0) := by decide

/-! Well-formedness: for each check a term it refuses. -/

/-- A reset entry at EL3 without EL3, at EL2 without EL2, and at a misaligned address; and one that passes. -/
theorem test_config_wf :
    Config.wf { Config.full with haveEl3 := false } = false ∧
    Config.wf { Config.minimal with resetEl := .el2 } = false ∧
    Config.wf { Config.full with resetPc := 2 } = false ∧
    Config.wf Config.full = true ∧ Config.wf { Config.full with haveEl3 := false, resetEl := .el2 } = true := by decide

/-- A misaligned base, a program past the top, and the longest one that ends at the top. -/
theorem test_program_fits :
    programFits 2 1 = false ∧ programFits 0xFFFFFFFFFFFFFFF8 3 = false ∧ programFits 0xFFFFFFFFFFFFFFF8 2 = true := by
  decide

/-- An image with a known 0b01 in SPD32, one with a value in a field that does not exist, and the reset image. -/
theorem test_image_wf :
    Mdcr.wf Config.full { State.reset.mdcr with spd32 := .known 0b01 } = false ∧
    Mdcr.wf Config.minimal State.reset.mdcr = false ∧ Mdcr.wf Config.full State.reset.mdcr = true := by decide

/-- Cells out of order, a cell twice, a cell past the top, and a canonical list. -/
theorem test_memory_wf :
    Memory.wf [(4, 0), (3, 0)] = false ∧ Memory.wf [(4, 0), (4, 1)] = false ∧ Memory.wf [(2 ^ 64, 0)] = false ∧
    Memory.wf [(3, 0), (4, 0)] = true := by decide

/-- A level the PE does not have (10_state.md R42, 40_sysreg_access.md R92). -/
theorem test_level_exists :
    elExists Config.minimal .el2 = false ∧ elExists { Config.full with haveEl3 := false } .el3 = false ∧
    elExists Config.minimal .el3 = true := by decide

/-! The register. -/

/-- 10_state.md R36 and 95_test_vectors.md: FMASK of FULL, MID and MIN, and RES0MASK of FULL. -/
theorem test_masks :
    fmask Config.full = 0xBFF640 ∧ fmask Config.mid = 0x33C640 ∧ fmask Config.minimal = 0x110600 ∧
    res0mask Config.full = 0xFFFFFFFFFF4009BF ∧ res0Always = res0mask Config.full := by decide

/-- 95_test_vectors.md 2.3, rows W1 to W3 and W6 to W8: what a write stores. -/
theorem test_write_stores :
    storedValue Config.full (writeValue Config.full 0xFFFFFFFFFFFFFFFF) = 0xBFF640 ∧
    storedValue Config.mid (writeValue Config.mid 0xFFFFFFFFFFFFFFFF) = 0x33C640 ∧
    storedValue Config.minimal (writeValue Config.minimal 0xFFFFFFFFFFFFFFFF) = 0x110600 ∧
    storedValue Config.full (writeValue Config.full 0xA5A5A5A5A5A5A5A5) = 0xA5A400 ∧
    storedValue Config.mid (writeValue Config.mid 0xA5A5A5A5A5A5A5A5) = 0x218400 ∧
    storedValue Config.minimal (writeValue Config.minimal 0xA5A5A5A5A5A5A5A5) = 0x10400 := by decide

/-- Rows W5, W9, W10 and W11: RES0 bits are dropped, and SPD32 = 0b01 is `reserved01` where the field exists. -/
theorem test_write_reserved :
    storedValue Config.full (writeValue Config.full 0xFFFFFFFFFF4009BF) = 0 ∧
    (writeValue Config.full 0x5A5A5A5A5A5A5A5A).spd32 = .reserved01 ∧
    storedValue Config.full (writeValue Config.full 0x5A5A5A5A5A5A5A5A) = 0x1A1240 ∧
    (writeValue Config.mid 0x5A5A5A5A5A5A5A5A).spd32 = .reserved01 ∧
    storedValue Config.mid (writeValue Config.mid 0x5A5A5A5A5A5A5A5A) = 0x120240 ∧
    (writeValue Config.minimal 0x5A5A5A5A5A5A5A5A).spd32 = .unknown ∧
    storedValue Config.minimal (writeValue Config.minimal 0x5A5A5A5A5A5A5A5A) = 0x100200 := by decide

/-- 95_test_vectors.md 2.3, the fields behind W6. -/
theorem test_write_fields :
    writeValue Config.full 0xA5A5A5A5A5A5A5A5 =
      { sccd := .known 1, epmad := .known 1, edad := .known 0, ttrf := .known 0, ste := .known 1, spme := .known 0,
        sdd := .known 1, spd32 := .known 0b10, nspb := .known 0b10, tdosa := .known 1, tda := .known 0,
        tpm := .known 0 } := by decide

/-- 95_test_vectors.md 2.6: the positions a read promises after a reset, under FULL, MID and MIN (UN-1 to UN-4). -/
theorem test_reset_known_masks :
    knownMask Config.full (resetImage Config.full true) = 0xB60000 ∧
    knownMask Config.full (resetImage Config.full false) = 0 ∧
    knownMask Config.mid (resetImage Config.mid true) = 0x320000 ∧
    knownMask Config.minimal (resetImage Config.minimal true) = 0x100000 := by decide

/-! States for the steps below. -/

/-- A state at a level, under a configuration, with `w` written to the register, 0x1234 in every general register and
the word at pc 0x1000. -/
def at_ (cfg : Config) (el : EL) (w : DWord) (word : Nat) : State :=
  ({ State.reset with
      cfg := cfg, el := el, pc := 0x1000, mdcr := writeValue cfg w,
      x := Vector.replicate 31 (.known 0x1234) } : State).withFetchWord 32 word

/-- A PE whose four unlisted register sets hold one register each. -/
def listed : Config :=
  { Config.full with debugRegs := [.other 1], pmuRegs := [.pmccntrEl0], speCtrl := [.other 2], bpwpRegs := [.other 3] }

/-- A PE without EL3 and EL2, reset into EL1. -/
def noEl3 : Config :=
  { Config.full with haveEl3 := false, haveEl2 := false, resetEl := .el1 }

/-- An environment in Secure state with every other member off. -/
def secure : Env where
  secureState := true
  scrEl3NsEff := 0
  scrEl3RwEff := 0
  mdscrEl1Kde := 0
  pstateD := 0
  sder32El3Suiden := 0
  secureEl1IsAarch32 := false
  inDebugState := false
  externalSecureNoninvasiveDebugEnabled := false
  authOverride := false
  authEnablesSecureEl1Debug := false
  traceOverriddenByExternalDebugger := false
  traceProhibitedByTrfcr := false
  lowerTraps := []

/-- An access of Secure AArch64 code. -/
def access (r : RegName) (el : EL) : Access where
  reg := r
  el := el
  secure := true
  aarch64 := true
  dir := .read

/-- The choice of the current image, of zeros for a drawn value, and of the answer false. -/
def plain : Choice where
  image := 0
  bits := 0
  answer := false

/-! The instructions: at most two tests each. -/

/-- 40_sysreg_access.md R90, worked example: SDD = 1, TDA = 1, all other fields 0. -/
theorem test_mrs_worked_example :
    ∃ u v, step (at_ Config.full .el3 0x10200 0xD53E1325) = .next u ∧ readX 5 u = .known v ∧ u.pc = 0x1004 ∧
      v.extractLsb' 16 1 = 1 ∧ v.extractLsb' 9 1 = 1 ∧ v.extractLsb' 10 1 = 0 ∧ v.extractLsb' 14 2 = 0 := by
  refine ⟨_, _, rfl, rfl, rfl, ?_, ?_, ?_, ?_⟩
  · exact (readValue_sdd _ _ _).trans rfl
  · exact (readValue_tda _ _ _).trans rfl
  · exact (readValue_tdosa _ _ _).trans rfl
  · exact (readValue_spd32 _ _ _).trans rfl

/-- 95_test_vectors.md Z2: MRS XZR writes no register. -/
theorem test_mrs_xzr :
    ∃ u, step (at_ Config.full .el3 0x10200 0xD53E133F) = .next u ∧ u.pc = 0x1004 ∧
      u.x = Vector.replicate 31 (.known 0x1234) ∧ u.mdcr = writeValue Config.full 0x10200 :=
  ⟨_, rfl, rfl, rfl, rfl⟩

/-- 95_test_vectors.md EL-4: 0x1234 written under FULL and MIN leaves 0x1200 and 0x0200. -/
theorem test_msr_stores :
    (∃ u, step (at_ Config.full .el3 0 0xD51E1320) = .next u ∧ storedValue Config.full u.mdcr = 0x1200 ∧
      u.pc = 0x1004 ∧ u.pending = [writeValue Config.full 0]) ∧
    ∃ u, step (at_ Config.minimal .el3 0 0xD51E1320) = .next u ∧ storedValue Config.minimal u.mdcr = 0x0200 :=
  ⟨⟨_, rfl, by decide, rfl, rfl⟩, ⟨_, rfl, by decide⟩⟩

/-- 95_test_vectors.md Z1: MSR MDCR_EL3, XZR writes zero to every field. -/
theorem test_msr_xzr :
    ∃ u, step (at_ Config.full .el3 0xBFF640 0xD51E133F) = .next u ∧ u.mdcr = writeValue Config.full 0 ∧
      storedValue Config.full u.mdcr = 0 ∧ knownMask Config.full u.mdcr = 0xBFF640 :=
  ⟨_, rfl, by decide, by decide, by decide⟩

/-- 95_test_vectors.md EL-1 to EL-3, Z3: UNDEFINED, with the pc, the word and the level. -/
theorem test_undefined_below_el3 :
    step (at_ Config.full .el0 0 0xD53E1320) = .fault (.undefined 0x1000 0xD53E1320 .el0) ∧
    step (at_ Config.full .el1 0 0xD51E133F) = .fault (.undefined 0x1000 0xD51E133F .el1) ∧
    step (at_ Config.full .el2 0 0xD51E1320) = .fault (.undefined 0x1000 0xD51E1320 .el2) :=
  ⟨rfl, rfl, rfl⟩

/-- The first instruction after reset, placed by the host: both rows of the table complete. -/
theorem test_first_instruction_after_reset :
    (∃ u, step (State.reset.withFetchWord 32 0xD53E1320) = .next u) ∧
    ∃ u, step (State.reset.withFetchWord 32 0xD51E1320) = .next u :=
  ⟨⟨_, rfl⟩, ⟨_, rfl⟩⟩

/-- Nothing is placed at reset, so nothing runs. -/
theorem test_nothing_runs_from_reset : step State.reset = .refused .outsideProgram := rfl

/-! What the fields do: rows of 95_test_vectors.md 2.9 to 2.11. -/

/-- TF-1, TF-4, TF-6, OS-1, OS-6, OS-7, DA-2 and DA-3, with every field of MDCR_EL3 at one. -/
theorem test_traps :
    trapsTtrf plain (at_ listed .el3 0xBFF640 0) (access .trfcrEl1 .el1) = true ∧
    trapsTtrf plain (at_ listed .el3 0xBFF640 0) (access .trfcrEl1 .el3) = false ∧
    trapsTdosa secure plain (at_ listed .el3 0xBFF640 0) (access .oslarEl1 .el1) = true ∧
    trapsTdosa secure plain (at_ listed .el3 0xBFF640 0) (access .oslsrEl1 .el0) = false ∧
    trapsTdosa { secure with lowerTraps := [(.mdcrEl2Tdosa, access .oslarEl1 .el1)] } plain (at_ listed .el3 0xBFF640 0)
      (access .oslarEl1 .el1) = false ∧
    trapsTda secure plain (at_ listed .el3 0xBFF640 0) (access .oslarEl1 .el1) = false ∧
    trapsTda secure plain (at_ listed .el3 0xBFF640 0) (access .dbgdtrEl0 .el0) = true ∧
    trapsTda { secure with inDebugState := true } plain (at_ listed .el3 0xBFF640 0) (access .dbgdtrEl0 .el0) = false := by
  decide

/-- NS-1, NS-3, NS-4, NS-7 and NS-8. -/
theorem test_nspb :
    trapsNspb secure plain (at_ listed .el3 0 0) (access (.other 2) .el1) = true ∧
    trapsNspb secure plain (at_ listed .el3 0x1000 0) { access (.other 2) .el1 with secure := false } = true ∧
    trapsNspb secure plain (at_ listed .el3 0x1000 0) (access (.other 2) .el1) = false ∧
    trapsNspb secure plain (at_ listed .el3 0x3000 0) (access (.other 2) .el1) = true ∧
    trapsNspb secure plain (at_ listed .el3 0x3000 0) { access (.other 2) .el2 with secure := false } = false := by
  decide

/-- A trapped access, one that nothing traps, SDCR, OS-7 (a control of a lower level traps first: log 33), and TF-6 (such a
control leaves TTRF alone). -/
theorem test_attempt_access :
    attemptAccess secure (fun _ => plain) (at_ listed .el3 0x40 0) (access .pmccntrEl0 .el1) =
      .fault (.trapToEL3 [.tpm] (access .pmccntrEl0 .el1)) ∧
    attemptAccess secure (fun _ => plain) (at_ listed .el3 0 0) (access .pmccntrEl0 .el3) =
      .refused (.registerNotSpecified .pmccntrEl0) ∧
    attemptAccess secure (fun _ => plain) (at_ listed .el3 0 0) (access .sdcr .el3) = .refused (.sdcrNotModelled true) ∧
    attemptAccess { secure with lowerTraps := [(.mdcrEl2Tdosa, access .oslarEl1 .el1)] } (fun _ => plain)
      (at_ listed .el3 0x400 0) (access .oslarEl1 .el1) = .refused (.trappedByLowerControl (access .oslarEl1 .el1)) ∧
    attemptAccess { secure with lowerTraps := [(.mdcrEl2Tdosa, access .trfcrEl1 .el1)] } (fun _ => plain)
      (at_ listed .el3 0x80000 0) (access .trfcrEl1 .el1) = .fault (.trapToEL3 [.ttrf] (access .trfcrEl1 .el1)) :=
  ⟨rfl, rfl, rfl, rfl, rfl⟩

/-- SD-2, SD-3, SP-1, SP-2, SP-5 and BK-1. -/
theorem test_debug_exceptions :
    debugExcEnabledBySdd { secure with scrEl3RwEff := 1, mdscrEl1Kde := 1 } plain (at_ listed .el3 0 0) .other .el1 =
      some true ∧
    debugExcEnabledBySdd { secure with scrEl3RwEff := 1 } plain (at_ listed .el3 0 0) .other .el1 = some false ∧
    secureEl0DebugEnabled { secure with secureEl1IsAarch32 := true } plain (at_ listed .el3 0x8000 0) .other = some false ∧
    secureEl0DebugEnabled { secure with secureEl1IsAarch32 := true, sder32El3Suiden := 1 } plain
      (at_ listed .el3 0x8000 0) .other = some true ∧
    secureEl1DebugEnabled { secure with authEnablesSecureEl1Debug := true } plain (at_ listed .el3 0x4000 0) .other =
      some true ∧
    debugExcEnabledBySdd { secure with scrEl3RwEff := 1 } plain (at_ listed .el3 0x10000 0) .breakpointInstruction .el1 =
      some true := by decide

/-- CC-1, CC-4, XD-1, XD-2, XD-4, XD-8, XD-10, XD-12, TR-4, EC-1 and EC-2. -/
theorem test_counting_trace_and_debugger :
    prohibitedBySccd secure plain (at_ listed .el3 0x800000 0) .pmccntrEl0 = true ∧
    prohibitedBySccd secure plain (at_ listed .el3 0x800000 0) .otherCycleEvent = false ∧
    extPmuAccessDisabled secure plain (at_ listed .el3 0x200000 0) ⟨.pmccntrEl0, true⟩ = true ∧
    extPmuAccessDisabled secure plain (at_ listed .el3 0x200000 0) ⟨.pmccntrEl0, false⟩ = false ∧
    extPmuAccessDisabled { secure with authOverride := true } plain
      (at_ { Config.mid with pmuRegs := [.pmccntrEl0] } .el3 0x200000 0) ⟨.pmccntrEl0, true⟩ = false ∧
    extDbgAccessDisabled secure plain (at_ listed .el3 0x100000 0) ⟨.other 3, false⟩ = false ∧
    extDbgAccessDisabled secure plain (at_ Config.minimal .el3 0x100000 0) ⟨.oslarEl1, true⟩ = false ∧
    extDbgAccessDisabled secure plain (at_ listed .el3 0x100000 0) ⟨.other 1, true⟩ = false ∧
    traceAllowedInSecure { secure with traceProhibitedByTrfcr := true } plain (at_ listed .el3 0x40000 0) = some false ∧
    eventCountingAllowedInSecure { secure with externalSecureNoninvasiveDebugEnabled := true } plain
      (at_ listed .el3 0 0) = some false ∧
    eventCountingAllowedInSecure { secure with externalSecureNoninvasiveDebugEnabled := true } plain
      (at_ Config.mid .el3 0 0) = some true := by decide

/-! Witnesses: the hypotheses of each obligation are met together. -/

/-- A fetched MRS below the top, at the lowest and at the highest address that has a step. -/
theorem test_meets_StepRunsDecodedInstruction :
    (∃ s : State, s.pc = 0 ∧ s.pc.toNat % 4 = 0 ∧ s.pc ≠ topPc ∧
      Memory.read s.mem s.pc.toNat = some 0x25 ∧ Memory.read s.mem (s.pc.toNat + 1) = some 0x13 ∧
      Memory.read s.mem (s.pc.toNat + 2) = some 0x3E ∧ Memory.read s.mem (s.pc.toNat + 3) = some 0xD5 ∧
      decodeBytes [0x25, 0x13, 0x3E, 0xD5] = .instr (.mrs 5) []) ∧
    ∃ s : State, s.pc = 0xFFFFFFFFFFFFFFF8 ∧ s.pc.toNat % 4 = 0 ∧ s.pc ≠ topPc ∧
      Memory.read s.mem s.pc.toNat = some 0x25 ∧ Memory.read s.mem (s.pc.toNat + 1) = some 0x13 ∧
      Memory.read s.mem (s.pc.toNat + 2) = some 0x3E ∧ Memory.read s.mem (s.pc.toNat + 3) = some 0xD5 :=
  ⟨⟨State.reset.withFetchWord 32 0xD53E1325, by decide⟩,
    ⟨({ State.reset with pc := 0xFFFFFFFFFFFFFFF8 } : State).withFetchWord 32 0xD53E1325, by decide⟩⟩

/-- The word of row E19 at the pc. -/
theorem test_meets_OtherWordsAreRefused :
    ∃ s : State, s.pc.toNat % 4 = 0 ∧ s.pc ≠ topPc ∧
      Memory.read s.mem s.pc.toNat = some 0x20 ∧ Memory.read s.mem (s.pc.toNat + 1) = some 0x13 ∧
      Memory.read s.mem (s.pc.toNat + 2) = some 0x7E ∧ Memory.read s.mem (s.pc.toNat + 3) = some 0xD5 ∧
      wordOfBytes 0x20 0x13 0x7E 0xD5 &&& 0xFFFFFFE0 ≠ 0xD53E1320 ∧
      wordOfBytes 0x20 0x13 0x7E 0xD5 &&& 0xFFFFFFE0 ≠ 0xD51E1320 :=
  ⟨State.reset.withFetchWord 32 0xD57E1320, by decide⟩

/-- A misaligned pc, the top, a word without its first byte and one without its last. -/
theorem test_meets_NoStepWithoutInstruction :
    (∃ s : State, s.pc.toNat % 4 = 3) ∧ (∃ s : State, s.pc = topPc) ∧
    (∃ s : State, s.pc.toNat % 4 = 0 ∧ s.pc ≠ topPc ∧ Memory.read s.mem (s.pc.toNat + 0) = none) ∧
    ∃ s : State, s.pc.toNat % 4 = 0 ∧ s.pc ≠ topPc ∧ Memory.read s.mem (s.pc.toNat + 2) = some 0x3E ∧
      Memory.read s.mem (s.pc.toNat + 3) = none :=
  ⟨⟨{ State.reset with pc := 3 }, by decide⟩, ⟨{ State.reset with pc := topPc }, rfl⟩, ⟨State.reset, by decide⟩,
    ⟨{ State.reset with mem := [(0, 0x20), (1, 0x13), (2, 0x3E)] }, by decide⟩⟩

/-- Two words at 0x1000: both addresses inside, the one below and the one above. -/
theorem test_meets_LoadedProgramIsExecuted :
    programFits 0x1000 [0xD53E1320#32, 0xD51E1320#32].length = true ∧
    (∃ s : State, s.pc.toNat % 4 = 0 ∧ s.pc ≠ topPc ∧ s.pc.toNat = (0x1000 : DWord).toNat + 4 * 0) ∧
    (∃ s : State, s.pc.toNat % 4 = 0 ∧ s.pc ≠ topPc ∧ s.pc.toNat = (0x1000 : DWord).toNat + 4 * 1) ∧
    (∃ s : State, s.pc.toNat % 4 = 0 ∧ s.pc ≠ topPc ∧ s.pc.toNat = (0x1000 : DWord).toNat - 4) ∧
    ∃ s : State, s.pc.toNat % 4 = 0 ∧ s.pc ≠ topPc ∧ s.pc.toNat = (0x1000 : DWord).toNat + 4 * 2 :=
  ⟨by decide, ⟨{ State.reset with pc := 0x1000 }, by decide⟩, ⟨{ State.reset with pc := 0x1004 }, by decide⟩,
    ⟨{ State.reset with pc := 0xFFC }, by decide⟩, ⟨{ State.reset with pc := 0x1008 }, by decide⟩⟩

/-- The end of a program of two words, of an empty one, and of one that ends at the top address. -/
theorem test_meets_FinalStateTakesNoStep :
    (programFits 0x1000 2 = true ∧ Final 0x1000 2 { State.reset with pc := 0x1008 }) ∧
    (programFits 0 0 = true ∧ Final 0 0 State.reset) ∧
    (programFits 0xFFFFFFFFFFFFFFF8 1 = true ∧ Final 0xFFFFFFFFFFFFFFF8 1 { State.reset with pc := topPc }) := by decide

/-- Every field exists and is known: the image of the value with all fields at one. -/
theorem test_meets_ReadShowsKnownFieldsInPlace :
    (∀ f : Field, Field.present Config.full f = true) ∧
    writeValue Config.full 0xBFF640 =
      { sccd := .known 1, epmad := .known 1, edad := .known 1, ttrf := .known 1, ste := .known 1, spme := .known 1,
        sdd := .known 1, spd32 := .known 0b11, nspb := .known 0b11, tdosa := .known 1, tda := .known 1,
        tpm := .known 1 } :=
  ⟨fun f => by cases f <;> decide, by decide⟩

/-- Every field exists; SPD32 legal and reserved; two values that differ in RES0 bits alone. -/
theorem test_meets_WriteStoresEveryField :
    (∀ f : Field, Field.present Config.full f = true) ∧ (0x8000 : DWord).extractLsb' 14 2 ≠ 0b01#2 ∧
    (0x4000 : DWord).extractLsb' 14 2 = 0b01#2 ∧
    (0x0 : DWord) &&& fmask Config.full = 0xFFFFFFFFFF4009BF &&& fmask Config.full :=
  ⟨fun f => by cases f <;> decide, by decide, by decide, by decide⟩

/-- EL3 below the top, the last address included; a register other than t, and t = 31. -/
theorem test_meets_MrsReadsRegisterAtEl3 :
    (∃ s : State, s.el = .el3 ∧ s.pc ≠ topPc) ∧ (∃ s : State, s.el = .el3 ∧ s.pc ≠ topPc ∧ s.pc + 4 = topPc) ∧
    (30#5 ≠ 31#5) ∧ (0#5 ≠ 30#5 ∨ 30#5 = 31#5) ∧ (31#5 ≠ 31#5 ∨ 31#5 = 31#5) :=
  ⟨⟨State.reset, by decide⟩, ⟨{ State.reset with pc := 0xFFFFFFFFFFFFFFF8 }, by decide⟩, by decide, by decide, by decide⟩

/-- EL3 below the top with a known and with an unknown source; t = 31 reads as known. -/
theorem test_meets_MsrWritesRegisterAtEl3 :
    (∃ s : State, s.el = .el3 ∧ s.pc ≠ topPc ∧ readX 30 s = .known 0x1234) ∧
    (∃ s : State, s.el = .el3 ∧ s.pc ≠ topPc ∧ readX 30 s = .unknown) ∧
    ∃ s : State, s.el = .el3 ∧ s.pc ≠ topPc ∧ readX 31#5 s = .known 0 :=
  ⟨⟨at_ Config.full .el3 0 0, by decide⟩, ⟨State.reset, by decide⟩, ⟨State.reset, by decide⟩⟩

/-- Each level below EL3. -/
theorem test_meets_UndefinedBelowEl3 :
    (at_ Config.full .el0 0 0).el ≠ .el3 ∧ (at_ Config.full .el1 0 0).el ≠ .el3 ∧
    (at_ Config.full .el2 0 0).el ≠ .el3 := by decide

/-- An MSR fetched at EL1. -/
theorem test_meets_UndefinedFaultRecordsFetchedWord :
    ∃ s : State, s.pc.toNat % 4 = 0 ∧ s.pc ≠ topPc ∧ s.el ≠ .el3 ∧
      Memory.read s.mem s.pc.toNat = some 0x3F ∧ Memory.read s.mem (s.pc.toNat + 1) = some 0x13 ∧
      Memory.read s.mem (s.pc.toNat + 2) = some 0x1E ∧ Memory.read s.mem (s.pc.toNat + 3) = some 0xD5 ∧
      decodeWord (wordOfBytes 0x3F 0x13 0x1E 0xD5) = some (.msr 31) :=
  ⟨at_ Config.full .el1 0 0xD51E133F, by decide⟩

/-- EL3 at the top address. -/
theorem test_meets_NoWrapAtTop : ∃ s : State, s.el = .el3 ∧ s.pc = topPc :=
  ⟨{ State.reset with pc := topPc }, rfl, rfl⟩

/-- EL3 with two addresses left, a known source and a register to read into; SPD32 legal and reserved. -/
theorem test_meets_MsrThenMrsReadsBack :
    (∃ s : State, s.el = .el3 ∧ s.pc ≠ topPc ∧ s.pc + 4 ≠ topPc ∧ readX 1 s = .known 0x1234 ∧ (2 : RegNum) ≠ 31#5) ∧
    (∃ s : State, s.el = .el3 ∧ s.pc ≠ topPc ∧ s.pc + 4 ≠ topPc ∧ readX 31 s = .known 0 ∧ (30 : RegNum) ≠ 31#5) ∧
    ∃ s : State, s.el = .el3 ∧ s.pc ≠ topPc ∧ s.pc + 4 ≠ topPc ∧ readX 1 s = .known 0x4000 ∧
      (0x4000 : DWord).extractLsb' 14 2 = 0b01#2 :=
  ⟨⟨at_ Config.full .el3 0 0, by decide⟩, ⟨at_ Config.full .el3 0 0, by decide⟩,
    ⟨{ State.reset with x := Vector.replicate 31 (.known 0x4000) }, by decide⟩⟩

/-- The state after reset (known and unknown fields), and one with the reserved SPD32. -/
theorem test_meets_SaveThenRestoreKeepsKnownFields :
    (∃ s : State, s.el = .el3 ∧ s.pc ≠ topPc ∧ s.pc + 4 ≠ topPc ∧ (0 : RegNum) ≠ 31#5 ∧ s.mdcr.wf s.cfg = true) ∧
    ∃ s : State, s.el = .el3 ∧ s.pc ≠ topPc ∧ s.pc + 4 ≠ topPc ∧ s.mdcr.wf s.cfg = true ∧
      s.mdcr.spd32 = .reserved01 :=
  ⟨⟨State.reset, by decide⟩, ⟨at_ Config.full .el3 0x4000 0, by decide⟩⟩

/-- Two states that differ in pc, pending and a general register. -/
theorem test_meets_MrsResultDependsOnRegisterAlone :
    ∃ s s' u u' : State, s.cfg = s'.cfg ∧ s.mdcr = s'.mdcr ∧ s.draws = s'.draws ∧ (3 : RegNum) ≠ 31#5 ∧
      exec (.mrs 3) s = .next u ∧ exec (.mrs 3) s' = .next u' ∧ s.pc ≠ s'.pc ∧ s.pending ≠ s'.pending ∧ s.x ≠ s'.x :=
  ⟨State.reset,
    { State.reset with
      pc := 8, pending := [writeValue Config.full 0], x := Vector.replicate 31 (.known 1) },
    _, _, rfl, rfl, rfl, by decide, rfl, rfl, by decide, by decide, by decide⟩

/-- A step that completes. -/
theorem test_meets_OnlyEl3Completes : ∃ s t : State, step s = .next t :=
  ⟨at_ Config.full .el3 0 0xD53E1320, _, rfl⟩

/-- A step that changes the register, and one that changes a general register. -/
theorem test_meets_OnlyItsInstructionChangesRegister :
    (∃ s t : State, step s = .next t ∧ t.mdcr ≠ s.mdcr) ∧
    ∃ s t : State, step s = .next t ∧ readX 4 t ≠ readX 4 s :=
  ⟨⟨at_ Config.full .el3 0 0xD51E1320, _, rfl, by decide⟩,
    ⟨State.reset.withFetchWord 32 0xD53E1324, _, rfl, by intro h; cases h⟩⟩

/-- The invariant with an image pending, and a step. -/
theorem test_meets_StepKeepsInvariant :
    ∃ s t : State, s.Inv ∧ s.pending ≠ [] ∧ step s = .next t :=
  ⟨{ at_ Config.full .el3 0 0xD51E1320 with pending := [writeValue Config.full 0x4000] }, _, by decide, by decide, rfl⟩

/-- A reset entry the rules allow and a program. -/
theorem test_meets_ResetMeetsInvariant :
    (at_ Config.minimal .el1 0 0xD51E1320).cfg.wf = true ∧ Memory.wf (at_ Config.minimal .el1 0 0xD51E1320).mem = true := by
  decide

/-- A run of two moves, a step and a context synchronisation event. -/
theorem test_meets_RunKeepsInvariantAndLevel :
    ∃ s t : State, Reaches 2 s t ∧ s.Inv :=
  ⟨at_ Config.full .el3 0 0xD51E1320, _, .more (.more (.start _) (.step rfl)) (.sync _), by decide⟩

/-- EL1 of a PE without EL3, an instruction fetched. -/
theorem test_meets_NothingCompletesWithoutEl3 :
    ∃ s : State, s.Inv ∧ s.cfg.haveEl3 = false ∧ fetch s = .ok (.msr 0) :=
  ⟨at_ noEl3 .el1 0 0xD51E1320, by decide, rfl, rfl⟩

/-- Every field of the reset clauses exists under FULL; the lowest and highest general register. -/
theorem test_meets_ResetLeavesStatedValues :
    (∀ f : Field, Field.present (at_ Config.full .el3 0 0).cfg f = true) ∧ (0 : RegNum) ≠ 31#5 ∧
    (30 : RegNum) ≠ 31#5 :=
  ⟨fun f => by cases f <;> decide, by decide, by decide⟩

/-- A state other than the one after reset. -/
theorem test_meets_ResetStateIsResetOfFull :
    ∃ s : State, s.cfg = Config.full ∧ s.mem = [] ∧ s.draws = 0 ∧ s ≠ State.reset :=
  ⟨{ State.reset with pc := 4 }, by decide⟩

/-- A PE with EL3, trace and monitors. -/
theorem test_meets_AfterAarch64ResetControlsAreOff :
    ∃ s : State, s.cfg.haveEl3 = true ∧ s.cfg.haveTracev8p4 = true ∧ s.cfg.havePmuv3 = true :=
  ⟨State.reset, by decide⟩

/-- One access for each clause, at the levels and registers where its range ends. -/
theorem test_meets_AfterResetTrapsAreOpen :
    (at_ listed .el3 0 0).cfg.haveEl3 = true ∧
    (listed.haveTracev8p4 = true ∧ (access .trfcr .el2).reg ∈ traceFilterRegs ∧
      ((access .trfcr .el2).el = .el1 ∨ (access .trfcr .el2).el = .el2)) ∧
    (listed.haveSpe = true ∧ (access (.other 2) .el1).reg ∈ listed.speCtrl ∧
      ((access (.other 2) .el1).el = .el1 ∨ (access (.other 2) .el1).el = .el2)) ∧
    ((access .dbgosdlr .el2).reg ∈ powerdownRegs listed ∧
      ((access .dbgosdlr .el2).el = .el1 ∨ (access .dbgosdlr .el2).el = .el2) ∧
      trappedLower secure .tdosa (access .dbgosdlr .el2) = false) ∧
    (inDebugRegs listed (access .dbgdtrEl0 .el0).reg = true ∧ (access .dbgdtrEl0 .el0).reg ∉ powerdownRegs listed ∧
      (access .dbgdtrEl0 .el0).el ≠ .el3 ∧ trappedLower secure .tda (access .dbgdtrEl0 .el0) = false ∧
      secure.inDebugState = false) ∧
    (inDebugRegs listed (access (.other 1) .el2).reg = true ∧ (access (.other 1) .el2).reg ∉ powerdownRegs listed ∧
      (access (.other 1) .el2).el ≠ .el3 ∧ (access (.other 1) .el2).reg ∉ dtrRegs) ∧
    (Config.minimal.haveEl3 = true ∧ (access .osdlrEl1 .el1).reg ∈ osdlrRegs ∧
      (access .osdlrEl1 .el1).reg ∉ powerdownRegs Config.minimal ∧ (access .osdlrEl1 .el1).el ≠ .el3 ∧
      trappedLower secure .tda (access .osdlrEl1 .el1) = false) ∧
    (listed.havePmuv3 = true ∧ (access .pmccntrEl0 .el0).reg ∈ listed.pmuRegs ∧ (access .pmccntrEl0 .el0).el ≠ .el3 ∧
      trappedLower secure .tpm (access .pmccntrEl0 .el0) = false) := by
  decide

/-- No EL3: without EL2 and Secure, Non-secure, with EL2, and with the Effective value of SCR_EL3.NS at one. -/
theorem test_meets_EffectiveValuesWithoutEl3 :
    ((at_ noEl3 .el1 0 0).cfg.haveEl3 = false ∧ (at_ noEl3 .el1 0 0).cfg.haveEl2 = false ∧ secure.scrEl3NsEff = 0 ∧
      secure.secureState = true) ∧
    { secure with secureState := false }.secureState = false ∧
    ({ noEl3 with haveEl2 := true }.haveEl3 = false ∧ { noEl3 with haveEl2 := true }.haveEl2 = true) ∧
    { secure with scrEl3NsEff := 1 }.scrEl3NsEff = 1 := by decide

/-- A PE with EL3 and a replaced image. -/
theorem test_meets_BehaviourUsesImagesSinceSync :
    ∃ s : State, s.cfg.haveEl3 = true ∧ ∃ m ∈ s.mdcr :: s.pending, m ≠ s.mdcr :=
  ⟨{ State.reset with pending := [writeValue Config.full 0] }, rfl, writeValue Config.full 0, by decide⟩

/-- An MSR of a known value with every field present; SPD32 reserved (0x4000) and legal (0x1234). -/
theorem test_meets_MsrThenSyncSettlesEveryControl :
    (∃ s u : State, s.cfg.haveEl3 = true ∧ readX 0 s = .known 0x1234 ∧ exec (.msr 0) s = .next u ∧
      ∀ f : Field, Field.present s.cfg f = true) ∧
    ∃ s u : State, s.cfg.haveEl3 = true ∧ readX 0 s = .known 0x4000 ∧ exec (.msr 0) s = .next u ∧
      (0x4000 : DWord).extractLsb' 14 2 = 0b01#2 :=
  ⟨⟨at_ Config.full .el3 0 0, _, rfl, by decide, rfl, fun f => by cases f <;> decide⟩,
    ⟨{ State.reset with x := Vector.replicate 31 (.known 0x4000) }, _, rfl, by decide, rfl, by decide⟩⟩

/-- The start of the hazard row: TDA known 0, a debug register of the parameter, 0x1234 (TDA = 1) to be written. -/
theorem test_meets_OldOrNewTrapUntilSync :
    ∃ s u : State, s.cfg.haveEl3 = true ∧ readX 0 s = .known 0x1234 ∧ (0x1234 : DWord).extractLsb' 9 1 = 1 ∧
      s.mdcr.tda = .known 0 ∧ exec (.msr 0) s = .next u ∧
      inDebugRegs s.cfg (access (.other 1) .el0).reg = true ∧ (access (.other 1) .el0).reg ∉ osdlrRegs ∧
      (access (.other 1) .el0).reg ∉ powerdownRegs s.cfg ∧ (access (.other 1) .el0).el ≠ .el3 ∧
      trappedLower secure .tda (access (.other 1) .el0) = false ∧ secure.inDebugState = false :=
  ⟨at_ listed .el3 0 0, _, rfl, by decide, by decide, by decide, rfl, by decide, by decide, by decide, by decide,
    by decide, rfl⟩

/-- TTRF: the hypotheses, with an access it traps. -/
theorem test_meets_TtrfTrapsTraceFilterRegisters :
    ∃ s : State, s.cfg.haveEl3 = true ∧ s.pending = [] ∧ s.cfg.haveTracev8p4 = true ∧ s.mdcr.ttrf = .known 1 ∧
      trapsTtrf plain s (access .trfcrEl12 .el2) = true :=
  ⟨at_ listed .el3 0x80000 0, by decide⟩

/-- NSPB at each of its four values. -/
theorem test_meets_NspbSelectsProfilingOwner :
    ∀ v : BitVec 2, ∃ s : State, s.cfg.haveEl3 = true ∧ s.pending = [] ∧ s.cfg.haveSpe = true ∧
      s.mdcr.nspb = .known v ∧ (access (.other 2) .el1).reg ∈ s.cfg.speCtrl := by
  intro v
  exact ⟨{ at_ listed .el3 0 0 with mdcr := { writeValue listed 0 with nspb := .known v } }, rfl, rfl, rfl, rfl, List.mem_singleton_self _⟩

/-- TDOSA: the hypotheses, with a register of the double lock on a PE without it that traps it. -/
theorem test_meets_TdosaTrapsPowerdownRegisters :
    ∃ s : State, s.cfg.haveEl3 = true ∧ s.pending = [] ∧ s.mdcr.tdosa = .known 1 ∧ s.cfg.haveDoublelock = false ∧
      trapsTdosa secure plain s (access .dbgosdlr .el1) = true :=
  ⟨at_ { listed with haveDoublelock := false } .el3 0x400 0, by decide⟩

/-- TDA: a debug register of the parameter, and a register of the double lock that TDOSA cannot trap. -/
theorem test_meets_TdaTrapsDebugRegisters :
    (∃ s : State, s.cfg.haveEl3 = true ∧ s.pending = [] ∧ s.mdcr.tda = .known 1 ∧
      (access (.other 1) .el0).reg ≠ .osdlrEl1 ∧ (access (.other 1) .el0).reg ≠ .dbgosdlr) ∧
    ∃ s : State, s.cfg.haveEl3 = true ∧ s.pending = [] ∧ s.mdcr.tda = .known 1 ∧
      (access .osdlrEl1 .el1).reg = .osdlrEl1 ∧ (access .osdlrEl1 .el1).reg ∉ powerdownRegs s.cfg ∧
      (access .osdlrEl1 .el1).el ≠ .el3 ∧ trappedLower secure .tda (access .osdlrEl1 .el1) = false :=
  ⟨⟨at_ listed .el3 0x200 0, by decide⟩, ⟨at_ Config.minimal .el3 0x200 0, by decide⟩⟩

/-- TPM: the hypotheses, with an access it traps. -/
theorem test_meets_TpmTrapsPerformanceMonitors :
    ∃ s : State, s.cfg.haveEl3 = true ∧ s.pending = [] ∧ s.cfg.havePmuv3 = true ∧ s.mdcr.tpm = .known 1 ∧
      trapsTpm secure plain s (access .pmccntrEl0 .el0) = true :=
  ⟨at_ listed .el3 0x40 0, by decide⟩

/-- An access made at EL3. -/
theorem test_meets_NoTrapAtEl3 : (access .oslarEl1 .el3).el = .el3 := rfl

/-- A trapped access on a PE with EL3; and one that a listed control of a lower level traps first, for each list. -/
theorem test_meets_TrapReportsControlsThatTrap :
    trappingControls secure (fun _ => plain) (at_ listed .el3 0xBFF640 0) (access .oslarEl1 .el1) = [.tdosa] ∧
    (.hdcrTdosa, access .oslarEl1 .el1) ∈
      { secure with lowerTraps := [(.hdcrTdosa, access .oslarEl1 .el1)] }.lowerTraps ∧
    (.mdscrEl1Tdcc, access .dbgdtrEl0 .el0) ∈
      { secure with lowerTraps := [(.mdscrEl1Tdcc, access .dbgdtrEl0 .el0)] }.lowerTraps ∧
    (.mdcrEl2Tpm, access .pmccntrEl0 .el1) ∈
      { secure with lowerTraps := [(.mdcrEl2Tpm, access .pmccntrEl0 .el1)] }.lowerTraps := by decide

/-- SDD ignored, SDD at one and SDD at zero. -/
theorem test_meets_SddControlsSecureDebugExceptions :
    (∃ s : State, s.cfg.haveEl3 = true ∧ s.pending = [] ∧ s.mdcr.sdd = .known 1) ∧
    (∃ s : State, s.cfg.haveEl3 = true ∧ s.pending = [] ∧ s.mdcr.sdd = .known 0) ∧
    ¬ (secure.secureState = true ∧ secure.scrEl3RwEff = 1) ∧
    ({ secure with scrEl3RwEff := 1 }.secureState = true ∧ { secure with scrEl3RwEff := 1 }.scrEl3RwEff = 1) :=
  ⟨⟨at_ listed .el3 0x10000 0, by decide⟩, ⟨at_ listed .el3 0 0, by decide⟩, by decide, by decide⟩

/-- SPD32 at each of its values where it applies, and the three ways it is ignored. -/
theorem test_meets_Spd32ControlsSecureDebugExceptions :
    (∃ s : State, s.cfg.haveEl3 = true ∧ s.pending = [] ∧ s.cfg.haveAarch32El1 = true ∧ s.mdcr.spd32 = .known 0b00) ∧
    (∃ s : State, s.cfg.haveEl3 = true ∧ s.pending = [] ∧ s.cfg.haveAarch32El1 = true ∧ s.mdcr.spd32 = .reserved01) ∧
    (∃ s : State, s.cfg.haveEl3 = true ∧ s.pending = [] ∧ s.cfg.haveAarch32El1 = true ∧ s.mdcr.spd32 = .known 0b10) ∧
    (∃ s : State, s.cfg.haveEl3 = true ∧ s.pending = [] ∧ s.cfg.haveAarch32El1 = true ∧ s.mdcr.spd32 = .known 0b11) ∧
    (secure.secureState = true ∧ secure.scrEl3RwEff = 0 ∧ secure.secureEl1IsAarch32 = false) ∧
    (∃ s : State, s.cfg.haveEl3 = true ∧ s.pending = [] ∧ s.cfg.haveAarch32El1 = false) ∧
    { secure with secureEl1IsAarch32 := true }.secureEl1IsAarch32 = true ∧
    { secure with secureState := false }.secureState = false ∧ { secure with scrEl3RwEff := 1 }.scrEl3RwEff = 1 :=
  ⟨⟨at_ listed .el3 0 0, by decide⟩, ⟨at_ listed .el3 0x4000 0, by decide⟩, ⟨at_ listed .el3 0x8000 0, by decide⟩,
    ⟨at_ listed .el3 0xC000 0, by decide⟩, by decide, ⟨at_ Config.minimal .el3 0 0, by decide⟩, by decide, by decide,
    by decide⟩

/-- SCCD: the hypotheses. -/
theorem test_meets_SccdProhibitsCycleCounter :
    ∃ s : State, s.cfg.haveEl3 = true ∧ s.pending = [] ∧ s.cfg.havePmuv8p5 = true ∧ s.mdcr.sccd = .known 1 :=
  ⟨at_ listed .el3 0x800000 0, by decide⟩

/-- EPMAD under each of its two alternatives. -/
theorem test_meets_EpmadDisablesExternalMonitors :
    (∃ s : State, s.cfg.haveEl3 = true ∧ s.pending = [] ∧ s.cfg.havePmuv3 = true ∧ s.cfg.pmuExtDebugIf = true ∧
      s.mdcr.epmad = .known 1 ∧ .pmccntrEl0 ∈ s.cfg.pmuRegs ∧ s.cfg.haveDebugv8p4 = true) ∧
    ∃ s : State, s.cfg.haveEl3 = true ∧ s.pending = [] ∧ s.cfg.havePmuv3 = true ∧ s.cfg.pmuExtDebugIf = true ∧
      s.mdcr.epmad = .known 1 ∧ .pmccntrEl0 ∈ s.cfg.pmuRegs ∧ s.cfg.haveDebugv8p4 = false :=
  ⟨⟨at_ listed .el3 0x200000 0, by decide⟩, ⟨at_ { listed with haveDebugv8p4 := false } .el3 0x200000 0, by decide⟩⟩

/-- EDAD under each of its three alternatives. -/
theorem test_meets_EdadDisablesExternalBreakpoints :
    (∃ s : State, s.cfg.haveEl3 = true ∧ s.pending = [] ∧ s.mdcr.edad = .known 1 ∧ s.cfg.haveDebugv8p4 = true) ∧
    (∃ s : State, s.cfg.haveEl3 = true ∧ s.pending = [] ∧ s.mdcr.edad = .known 1 ∧ s.cfg.haveDebugv8p4 = false ∧
      s.cfg.haveDebugv8p2 = true) ∧
    ∃ s : State, s.cfg.haveEl3 = true ∧ s.pending = [] ∧ s.mdcr.edad = .known 1 ∧ s.cfg.haveDebugv8p4 = false ∧
      s.cfg.haveDebugv8p2 = false :=
  ⟨⟨at_ listed .el3 0x100000 0, by decide⟩, ⟨at_ { listed with haveDebugv8p4 := false } .el3 0x100000 0, by decide⟩,
    ⟨at_ Config.minimal .el3 0x100000 0, by decide⟩⟩

/-- STE at zero and at one. -/
theorem test_meets_SteControlsSecureTrace :
    (∃ s : State, s.cfg.haveEl3 = true ∧ s.pending = [] ∧ s.cfg.haveTracev8p4 = true ∧ s.mdcr.ste = .known 0) ∧
    ∃ s : State, s.cfg.haveEl3 = true ∧ s.pending = [] ∧ s.cfg.haveTracev8p4 = true ∧ s.mdcr.ste = .known 1 :=
  ⟨⟨at_ listed .el3 0 0, by decide⟩, ⟨at_ listed .el3 0x40000 0, by decide⟩⟩

/-- SPME at one, and at zero under each of its two alternatives. -/
theorem test_meets_SpmeControlsSecureEventCounting :
    (∃ s : State, s.cfg.haveEl3 = true ∧ s.pending = [] ∧ s.cfg.havePmuv3 = true ∧ s.mdcr.spme = .known 1) ∧
    (∃ s : State, s.cfg.haveEl3 = true ∧ s.pending = [] ∧ s.cfg.havePmuv3 = true ∧ s.mdcr.spme = .known 0 ∧
      s.cfg.haveDebugv8p2 = true) ∧
    ∃ s : State, s.cfg.haveEl3 = true ∧ s.pending = [] ∧ s.cfg.havePmuv3 = true ∧ s.mdcr.spme = .known 0 ∧
      s.cfg.haveDebugv8p2 = false :=
  ⟨⟨at_ listed .el3 0x20000 0, by decide⟩, ⟨at_ listed .el3 0 0, by decide⟩, ⟨at_ Config.mid .el3 0 0, by decide⟩⟩

end Sys2Proof.Tests
end

/-! PROOF. The bits of `FMASK(cfg)` and `RES0MASK(cfg)` (10_state.md R36), field by field. -/

namespace Sys2Proof.Machine

/-- Whether bit `i` of the register belongs to a field: the figure of 10_state.md R21. -/
def Field.hasBit : Field → Nat → Bool
  | .sccd, i => i == 23
  | .epmad, i => i == 21
  | .edad, i => i == 20
  | .ttrf, i => i == 19
  | .ste, i => i == 18
  | .spme, i => i == 17
  | .sdd, i => i == 16
  | .spd32, i => i == 15 || i == 14
  | .nspb, i => i == 13 || i == 12
  | .tdosa, i => i == 10
  | .tda, i => i == 9
  | .tpm, i => i == 6

/-- No field has a bit beyond the register's width. -/
theorem Field.hasBit_of_le {i : Nat} (h : 64 ≤ i) (f : Field) : f.hasBit i = false := by
  cases f <;> simp only [Field.hasBit, Bool.or_eq_false_iff, beq_eq_false_iff_ne] <;> omega

/-- Below the register's width the bits are compared one by one. -/
theorem Field.getLsbD_mask_fin (f : Field) : ∀ i : Fin 64, f.mask.getLsbD i = f.hasBit i := by
  cases f <;> decide

/-- The mask of a field (`Field.mask`) has the bits the figure gives the field. -/
theorem Field.getLsbD_mask (f : Field) (i : Nat) : f.mask.getLsbD i = f.hasBit i := by
  by_cases h : i < 64
  · exact f.getLsbD_mask_fin ⟨i, h⟩
  · rw [BitVec.getLsbD_of_ge _ _ (by omega), f.hasBit_of_le (by omega)]

/-- A field puts its bits into the mask exactly where it exists. -/
theorem Field.getLsbD_maskIn (cfg : Config) (f : Field) (i : Nat) :
    (f.maskIn cfg).getLsbD i = (f.present cfg && f.hasBit i) := by
  cases h : f.present cfg <;> simp [Field.maskIn, h, f.getLsbD_mask]

/-- Bit `i` of `FMASK(cfg)` is set exactly where one of the twelve fields exists and has it. -/
theorem getLsbD_fmask (cfg : Config) (i : Nat) :
    (fmask cfg).getLsbD i =
      [Field.sccd, .epmad, .edad, .ttrf, .ste, .spme, .sdd, .spd32, .nspb, .tdosa, .tda, .tpm].any
        (fun f => f.present cfg && f.hasBit i) := by
  simp only [fmask, BitVec.getLsbD_or, Field.getLsbD_maskIn, List.any_cons, List.any_nil, Bool.or_false,
    Bool.or_assoc]

/-- `RES0MASK(cfg)` is the complement of `FMASK(cfg)` within the register's width. -/
theorem getLsbD_res0mask (cfg : Config) {i : Nat} (h : i < 64) :
    (res0mask cfg).getLsbD i = !(fmask cfg).getLsbD i := by
  rw [res0mask, BitVec.getLsbD_not, decide_eq_true h, Bool.true_and]

end Sys2Proof.Machine

namespace Sys2Proof.Proofs

open Sys2Proof.Machine

/-- Settles O10: by `Field.getLsbD_maskIn` each of the twelve fields contributes its bits under its condition, and R36
lists the same contributions in another order, those under one condition together. -/
theorem fieldMaskHoldsPresentFields : Obligations.FieldMaskHoldsPresentFields := by
  unfold Obligations.FieldMaskHoldsPresentFields
  intro cfg i
  refine ⟨?_, getLsbD_res0mask cfg⟩
  rw [getLsbD_fmask]
  simp only [List.any_cons, List.any_nil, Bool.or_false, Field.present, Field.hasBit, Bool.true_and,
    Bool.and_or_distrib_left]
  ac_rfl

end Sys2Proof.Proofs

/-! PROOF. What the controls of 60_exceptions.md R102 to R113 do: the value a settled field shows, the register sets and
levels as propositions, and the rules read off them. -/

namespace Sys2Proof.Machine

/-! The value an evaluation reads: EL3 exists and nothing is pending. -/

/-- With EL3 and nothing pending, a rule reads the value its one-value field holds. -/
theorem effective_chosen_of_known {n : Nat} {s : State} (field : Mdcr → FieldVal n) {v : BitVec n}
    (hel3 : s.cfg.haveEl3 = true) (hpend : s.pending = []) (hfield : field s.mdcr = .known v)
    (c : Choice) (sentence : Option (BitVec n)) (sampled drawn : BitVec n) :
    effective s.cfg sentence ((field (chosenImage c s)).sample sampled) drawn = v := by
  rw [effective_of_el3 hel3, chosenImage_of_pending_nil c hpend, hfield, FieldVal.sample]

/-- With EL3 and nothing pending, SPD32 is read as the current image behaves (10_state.md R30). -/
theorem effSpd32_of_settled {s : State} (hel3 : s.cfg.haveEl3 = true) (hpend : s.pending = []) (env : Env)
    (c : Choice) : effSpd32 env c s = s.mdcr.spd32.behaves c.bits := by
  rw [effSpd32, effective_of_el3 hel3, chosenImage_of_pending_nil c hpend]

/-! Levels, register sets and the controls of lower levels. -/

theorem atEl1OrEl2_iff (el : EL) : atEl1OrEl2 el = true ↔ el = .el1 ∨ el = .el2 := by
  cases el <;> decide

theorem belowEl3_iff (el : EL) : belowEl3 el = true ↔ el = .el0 ∨ el = .el1 ∨ el = .el2 := by
  cases el <;> decide

theorem mem_traceFilterRegs_iff (r : RegName) :
    r ∈ traceFilterRegs ↔ r = .trfcrEl2 ∨ r = .trfcrEl12 ∨ r = .trfcrEl1 ∨ r = .htrfcr ∨ r = .trfcr := by
  simp only [traceFilterRegs, List.mem_cons, List.not_mem_nil, or_false]

/-- The two registers of the double lock are among the powerdown registers where it exists or where the implementation
traps them (R104). -/
theorem mem_powerdownRegs_iff (cfg : Config) (r : RegName) :
    r ∈ powerdownRegs cfg ↔
      r = .oslarEl1 ∨ r = .oslsrEl1 ∨ r = .dbgprcrEl1 ∨ r = .dbgoslar ∨ r = .dbgoslsr ∨ r = .dbgprcr ∨
        r ∈ cfg.tdosaImpdefRegs ∨
        ((cfg.haveDoublelock = true ∨ cfg.tdosaTrapsOsdlr = true) ∧ (r = .osdlrEl1 ∨ r = .dbgosdlr)) := by
  simp only [powerdownRegs, osdlrRegs, List.mem_append, List.mem_cons, List.not_mem_nil, or_false,
    List.mem_ite_nil_right, Bool.or_eq_true, or_assoc]

/-- An access is trapped first exactly where a control the field's rule lists traps it. -/
theorem trappedLower_iff (env : Env) (k : Control) (a : Access) :
    trappedLower env k a = true ↔ ∃ l ∈ lowerControls k, (l, a) ∈ env.lowerTraps := by
  simp only [trappedLower, List.any_eq_true, List.contains_iff_mem]

/-! The rules of R102, R104, R106 in terms of the field's Effective value. -/

theorem trapsTtrf_iff (c : Choice) (s : State) (a : Access) :
    trapsTtrf c s a = true ↔
      s.cfg.haveTracev8p4 = true ∧ effTtrf c s = 1 ∧ a.reg ∈ traceFilterRegs ∧ (a.el = .el1 ∨ a.el = .el2) := by
  simp only [trapsTtrf, Field.present, Bool.and_eq_true, beq_iff_eq, List.contains_iff_mem, atEl1OrEl2_iff, and_assoc]

theorem trapsTdosa_iff (env : Env) (c : Choice) (s : State) (a : Access) :
    trapsTdosa env c s a = true ↔
      effTdosa c s = 1 ∧ a.reg ∈ powerdownRegs s.cfg ∧ (a.el = .el1 ∨ a.el = .el2) ∧
      ¬ trappedLower env .tdosa a = true := by
  simp only [trapsTdosa, Field.present, Bool.and_eq_true, beq_iff_eq, List.contains_iff_mem, atEl1OrEl2_iff, and_assoc,
    Bool.not_eq_true', Bool.not_eq_true, true_and]

theorem trapsTpm_iff (env : Env) (c : Choice) (s : State) (a : Access) :
    trapsTpm env c s a = true ↔
      s.cfg.havePmuv3 = true ∧ effTpm c s = 1 ∧ a.reg ∈ s.cfg.pmuRegs ∧
      (a.el = .el0 ∨ a.el = .el1 ∨ a.el = .el2) ∧ ¬ trappedLower env .tpm a = true := by
  simp only [trapsTpm, Field.present, Bool.and_eq_true, beq_iff_eq, List.contains_iff_mem, belowEl3_iff, and_assoc,
    Bool.not_eq_true', Bool.not_eq_true]

/-! Debug exceptions in Secure state (R107, R108). -/

theorem sddApplies_iff (env : Env) : sddApplies env = true ↔ env.secureState = true ∧ env.scrEl3RwEff = 1 := by
  simp only [sddApplies, Bool.and_eq_true, beq_iff_eq]

theorem spd32Applies_iff (env : Env) (cfg : Config) :
    spd32Applies env cfg = true ↔
      cfg.haveAarch32El1 = true ∧ env.secureState = true ∧ env.scrEl3RwEff = 0 := by
  simp only [spd32Applies, Field.present, Bool.and_eq_true, beq_iff_eq, and_assoc]

/-- R107 and R108 never both apply: they ask for opposite values of SCR_EL3.RW. -/
theorem not_sddApplies_and_spd32Applies (env : Env) (cfg : Config) :
    ¬ (sddApplies env = true ∧ spd32Applies env cfg = true) := by
  rw [sddApplies_iff, spd32Applies_iff]
  rintro ⟨⟨-, hrw1⟩, -, -, hrw0⟩
  exact absurd (hrw1.symm.trans hrw0) (by decide)

theorem debugExcEnabledBySdd_of_not_applies {env : Env} (h : ¬ sddApplies env = true) (c : Choice) (s : State)
    (el : EL) : debugExcEnabledBySdd env c s .other el = none := by
  simp [debugExcEnabledBySdd, h]

theorem debugExcEnabledBySdd_of_one {env : Env} (h : sddApplies env = true) {c : Choice} {s : State}
    (hsdd : effSdd c s = 1) (el : EL) : debugExcEnabledBySdd env c s .other el = some false := by
  simp [debugExcEnabledBySdd, h, hsdd]

/-- The level decides where SDD applies and is 0; for EL2 and EL3 the choice does (log 28). -/
theorem debugExcEnabledBySdd_of_zero {env : Env} (h : sddApplies env = true) {c : Choice} {s : State}
    (hsdd : effSdd c s = 0) :
    debugExcEnabledBySdd env c s .other .el0 = some true ∧
    debugExcEnabledBySdd env c s .other .el1 = some (env.mdscrEl1Kde == 1 && env.pstateD == 0) ∧
    debugExcEnabledBySdd env c s .other .el2 = some c.answer ∧
    debugExcEnabledBySdd env c s .other .el3 = some c.answer := by
  simp [debugExcEnabledBySdd, h, hsdd]

theorem secureDebugEnabled_of_not_applies {env : Env} {s : State} (h : ¬ spd32Applies env s.cfg = true) (c : Choice) :
    secureEl1DebugEnabled env c s .other = none ∧ secureEl0DebugEnabled env c s .other = none := by
  simp [secureEl1DebugEnabled, secureEl0DebugEnabled, h]

/-- Where SPD32 applies, its meaning decides for Secure EL1, and with SUIDEN for a Secure EL0 under AArch32. -/
theorem secureDebugEnabled_of_applies {env : Env} {s : State} (h : spd32Applies env s.cfg = true) (c : Choice) :
    secureEl1DebugEnabled env c s .other = some (spd32Meaning env (effSpd32 env c s)) ∧
    (env.secureEl1IsAarch32 = true → secureEl0DebugEnabled env c s .other =
      some (spd32Meaning env (effSpd32 env c s) || env.sder32El3Suiden == 1)) ∧
    (env.secureEl1IsAarch32 = false → secureEl0DebugEnabled env c s .other = none) := by
  refine ⟨?_, fun h32 => ?_, fun h32 => ?_⟩
  · simp [secureEl1DebugEnabled, h]
  · simp [secureEl0DebugEnabled, h, h32]
  · simp [secureEl0DebugEnabled, h32]

/-- The rows of R108: a stored value, the reserved one among them, and what it says of Secure EL1. -/
theorem spd32Meaning_behaves {env : Env} {f : Spd32Val} {e : Bool}
    (h : ((f = .known 0b00 ∨ f = .reserved01) ∧ e = env.authEnablesSecureEl1Debug) ∨
      (f = .known 0b10 ∧ e = false) ∨ (f = .known 0b11 ∧ e = true)) (d : BitVec 2) :
    spd32Meaning env (f.behaves d) = e := by
  obtain ⟨rfl | rfl, rfl⟩ | ⟨rfl, rfl⟩ | ⟨rfl, rfl⟩ := h <;> rfl

end Sys2Proof.Machine

namespace Sys2Proof.Proofs

open Sys2Proof.Machine

/-- Settles O38: `trapsTdosa_iff` at the value the field holds, with the set `POWERDOWN(cfg)` and the two listed
controls written out. -/
theorem tdosaTrapsPowerdownRegisters : Obligations.TdosaTrapsPowerdownRegisters := by
  unfold Obligations.TdosaTrapsPowerdownRegisters
  intro s env c a v hel3 hpend hfield
  have heff : effTdosa c s = v := effective_chosen_of_known Mdcr.tdosa hel3 hpend hfield ..
  rw [trapsTdosa_iff, heff, mem_powerdownRegs_iff, trappedLower_iff]
  simp [lowerControls]

/-- Settles O43: where SDD applies its value decides, and with SDD = 0 a choice whose answer is `b` gives `b` at EL2 and
EL3. -/
theorem sddControlsSecureDebugExceptions : Obligations.SddControlsSecureDebugExceptions := by
  unfold Obligations.SddControlsSecureDebugExceptions
  intro s env v hel3 hpend hfield
  have heff (c : Choice) : effSdd c s = v := effective_chosen_of_known Mdcr.sdd hel3 hpend hfield ..
  refine ⟨fun hnot c => debugExcEnabledBySdd_of_not_applies (mt (sddApplies_iff env).mp hnot) c s,
    fun hsecure hrw => ?_⟩
  have happlies := (sddApplies_iff env).mpr ⟨hsecure, hrw⟩
  refine ⟨fun hone c => debugExcEnabledBySdd_of_one happlies ((heff c).trans hone), fun hzero c => ?_,
    fun hzero b => ?_⟩
  · obtain ⟨hel0, hel1, -, -⟩ := debugExcEnabledBySdd_of_zero happlies ((heff c).trans hzero)
    exact ⟨hel0, hel1⟩
  · obtain ⟨-, -, hel2, hel3⟩ := debugExcEnabledBySdd_of_zero happlies ((heff ⟨0, 0, b⟩).trans hzero)
    exact ⟨⟨_, hel2⟩, ⟨_, hel3⟩⟩

/-- Settles O44: outside its conditions SPD32 says nothing, within them the row of its value decides, and SDD asks for
the other value of SCR_EL3.RW. -/
theorem spd32ControlsSecureDebugExceptions : Obligations.Spd32ControlsSecureDebugExceptions := by
  unfold Obligations.Spd32ControlsSecureDebugExceptions
  intro s env c hel3 hpend
  refine ⟨fun hout => ?_, fun h32 hsecure hrw e hrow => ?_, not_sddApplies_and_spd32Applies env s.cfg⟩
  · refine secureDebugEnabled_of_not_applies (fun happlies => ?_) c
    obtain ⟨h32, hsecure, hrw⟩ := (spd32Applies_iff env s.cfg).mp happlies
    simp [h32, hsecure, hrw] at hout
  · have happlies := (spd32Applies_iff env s.cfg).mpr ⟨h32, hsecure, hrw⟩
    have hmeaning : spd32Meaning env (effSpd32 env c s) = e := by
      rw [effSpd32_of_settled hel3 hpend, spd32Meaning_behaves hrow]
    rw [← hmeaning]
    exact secureDebugEnabled_of_applies happlies c

/-- Settles O36: `trapsTtrf_iff` at the value the field holds, with the Trace Filter control registers written out. -/
theorem ttrfTrapsTraceFilterRegisters : Obligations.TtrfTrapsTraceFilterRegisters := by
  unfold Obligations.TtrfTrapsTraceFilterRegisters
  intro s c a v hel3 hpend htrace hfield
  have heff : effTtrf c s = v := effective_chosen_of_known Mdcr.ttrf hel3 hpend hfield ..
  rw [trapsTtrf_iff, heff, mem_traceFilterRegs_iff, and_iff_right htrace]

/-- Settles O40: `trapsTpm_iff` at the value the field holds, with the two listed controls written out. -/
theorem tpmTrapsPerformanceMonitors : Obligations.TpmTrapsPerformanceMonitors := by
  unfold Obligations.TpmTrapsPerformanceMonitors
  intro s env c a v hel3 hpend hpmu hfield
  have heff : effTpm c s = v := effective_chosen_of_known Mdcr.tpm hel3 hpend hfield ..
  rw [trapsTpm_iff, heff, and_iff_right hpmu, trappedLower_iff]
  simp [lowerControls]

/-- Settles O45: each predicate answers for a Breakpoint Instruction exception before it reads the register. -/
theorem breakpointInstructionsAlwaysEnabled : Obligations.BreakpointInstructionsAlwaysEnabled := by
  unfold Obligations.BreakpointInstructionsAlwaysEnabled
  exact fun _ _ _ _ => ⟨rfl, rfl, rfl⟩

/-- Settles O46: the prohibition reads SCCD and the Security state for PMCCNTR_EL0, and nothing for other cycle
events. -/
theorem sccdProhibitsCycleCounter : Obligations.SccdProhibitsCycleCounter := by
  unfold Obligations.SccdProhibitsCycleCounter
  intro s env c v hel3 hpend hpmu hfield
  have heff : effSccd c s = v := effective_chosen_of_known Mdcr.sccd hel3 hpend hfield ..
  refine ⟨?_, rfl⟩
  simp [prohibitedBySccd, Field.present, hpmu, heff]

/-- Settles O49: STE selects between the external debugger's override and the Trace Filter control registers. -/
theorem steControlsSecureTrace : Obligations.SteControlsSecureTrace := by
  unfold Obligations.SteControlsSecureTrace
  intro s env c v hel3 hpend htrace hfield
  have heff : effSte env c s = v := effective_chosen_of_known Mdcr.ste hel3 hpend hfield ..
  refine ⟨fun hzero => ?_, fun hone => ?_⟩
  · simp [traceAllowedInSecure, Field.present, htrace, heff, hzero]
  · simp [traceAllowedInSecure, Field.present, htrace, heff, hone]

end Sys2Proof.Proofs

/-! PROOF. The encoding (30_encoding.md R71 to R75, R78) and the fetch of the word at the pc (20_memory.md R62): which
words decode, and what a step does with the word it finds. -/

namespace Sys2Proof

open Laws

/-! Words and instructions. -/

/-- The two rows of the table, as one statement over the instructions. -/
theorem fixedBits (i : Instr) : FixedBits.Statement i := by
  cases i with
  | mrs t => exact FixedBits.mrs t
  | msr t => exact FixedBits.msr t

/-- The decoder finds again every instruction that was encoded. -/
@[simp] theorem decodeWord_encode (i : Instr) : decodeWord (encode i) = some i := by
  obtain ⟨-, -, hdecode⟩ := fixedBits i
  exact hdecode

/-- The decoder compares fields, and a word is its fields: it accepts exactly the words of the encoder. -/
theorem decodeWord_eq_some_iff {w : Word} {i : Instr} : decodeWord w = some i ↔ w = encode i := by
  refine ⟨fun h => ?_, fun h => h ▸ decodeWord_encode i⟩
  rw [← SysregWord.join_split w]
  simp only [decodeWord] at h
  split at h
  next hmrs => cases h; exact congrArg SysregWord.join hmrs
  next =>
    split at h
    next hmsr => cases h; exact congrArg SysregWord.join hmsr
    next => cases h

/-- The word of an instruction is the `match` of its row with the register number in the low five bits. -/
theorem encode_eq_tableMatch_or (i : Instr) : encode i = tableMatch i ||| (rtOf i).setWidth 32 := by
  cases i with
  | mrs t => revert t; decide
  | msr t => revert t; decide

/-- A word is what the table's mask keeps, or-ed with its low five bits. -/
theorem word_eq_masked_or_low (w : Word) : w = (w &&& 0xFFFFFFE0) ||| (w.extractLsb' 0 5).setWidth 32 := by
  apply BitVec.eq_of_getLsbD_eq
  intro i hi
  interval_cases i <;> simp

/-- The match and mask of R75 pick out the word of an instruction. -/
theorem eq_encode_iff {w : Word} {i : Instr} :
    w = encode i ↔ w &&& 0xFFFFFFE0 = tableMatch i ∧ rtOf i = w.extractLsb' 0 5 := by
  constructor
  · rintro rfl
    obtain ⟨hmatch, hrt, -⟩ := fixedBits i
    exact ⟨hmatch, hrt.symm⟩
  · rintro ⟨hmatch, hrt⟩
    rw [word_eq_masked_or_low w, hmatch, ← hrt, ← encode_eq_tableMatch_or]

/-- A word that matches neither row does not decode. -/
theorem decodeWord_eq_none {w : Word} (hmrs : w &&& 0xFFFFFFE0 ≠ 0xD53E1320)
    (hmsr : w &&& 0xFFFFFFE0 ≠ 0xD51E1320) : decodeWord w = none := by
  cases h : decodeWord w with
  | none => rfl
  | some i =>
    obtain ⟨hmatch, -⟩ := eq_encode_iff.mp (decodeWord_eq_some_iff.mp h)
    cases i with
    | mrs t => exact absurd hmatch hmrs
    | msr t => exact absurd hmatch hmsr

/-! Bytes and instructions. -/

theorem decodeBytes_of_some {w : Word} {i : Instr} (h : decodeWord w = some i) (rest : List Byte) :
    decodeBytes (bytesOfWord w ++ rest) = .instr i rest := by
  simp [bytesOfWord, decodeBytes, wordOfBytes_bytesOfWord, h]

theorem decodeBytes_of_none {w : Word} (h : decodeWord w = none) (rest : List Byte) :
    decodeBytes (bytesOfWord w ++ rest) = .notInScope w := by
  simp [bytesOfWord, decodeBytes, wordOfBytes_bytesOfWord, h]

/-- The decoder answers an instruction only for four bytes whose word decodes to it, and hands on the bytes after. -/
theorem exists_word_of_decodeBytes {bs rest : List Byte} {i : Instr} (h : decodeBytes bs = .instr i rest) :
    ∃ w, bs = bytesOfWord w ++ rest ∧ decodeWord w = some i := by
  unfold decodeBytes at h
  split at h
  next b0 b1 b2 b3 tail =>
    split at h
    next j hj =>
      cases h
      exact ⟨_, by rw [bytesOfWord_wordOfBytes]; rfl, hj⟩
    next => cases h
  next => cases h

theorem decodeBytes_eq_instr_iff {bs rest : List Byte} {i : Instr} :
    decodeBytes bs = .instr i rest ↔ bs = encodeBytes i ++ rest := by
  constructor
  · intro h
    obtain ⟨w, rfl, hw⟩ := exists_word_of_decodeBytes h
    rw [encodeBytes, ← decodeWord_eq_some_iff.mp hw]
  · rintro rfl
    exact decodeBytes_of_some (decodeWord_encode i) rest

/-- The bytes of a word determine it. -/
theorem bytesOfWord_injective {v w : Word} (h : bytesOfWord v = bytesOfWord w) : v = w := by
  simp only [bytesOfWord, List.cons.injEq, and_true] at h
  obtain ⟨h0, h1, h2, h3⟩ := h
  rw [← wordOfBytes_bytesOfWord v, h0, h1, h2, h3, wordOfBytes_bytesOfWord]

end Sys2Proof

namespace Sys2Proof.Machine

/-! The word at the pc. -/

/-- The pc is aligned and below the top, and the program text has the four bytes of `w` there. -/
structure State.WordAtPc (s : State) (w : Word) : Prop where
  aligned : s.pc.toNat % 4 = 0
  belowTop : s.pc ≠ topPc
  bytes : Memory.readWord s.mem s.pc.toNat = bytesOfWord w

theorem State.WordAtPc.of_bytes {s : State} {b0 b1 b2 b3 : Byte} (haligned : s.pc.toNat % 4 = 0)
    (htop : s.pc ≠ topPc) (h0 : Memory.read s.mem s.pc.toNat = some b0)
    (h1 : Memory.read s.mem (s.pc.toNat + 1) = some b1) (h2 : Memory.read s.mem (s.pc.toNat + 2) = some b2)
    (h3 : Memory.read s.mem (s.pc.toNat + 3) = some b3) : s.WordAtPc (wordOfBytes b0 b1 b2 b3) :=
  ⟨haligned, htop, by rw [Memory.readWord_eq h0 h1 h2 h3, bytesOfWord_wordOfBytes]⟩

theorem State.WordAtPc.fetch_of_some {s : State} {w : Word} {i : Instr} (h : s.WordAtPc w)
    (hdecode : decodeWord w = some i) : fetch s = .ok i := by
  rw [fetch_eq_ok_iff, h.bytes]
  exact ⟨h.aligned, h.belowTop, [], by simpa using decodeBytes_of_some hdecode []⟩

/-- A step runs the instruction the word at the pc decodes to. -/
theorem State.WordAtPc.step_of_some {s : State} {w : Word} {i : Instr} (h : s.WordAtPc w)
    (hdecode : decodeWord w = some i) : step s = exec i s :=
  step_of_fetch (h.fetch_of_some hdecode)

/-- A step refuses a word that does not decode. -/
theorem State.WordAtPc.step_of_none {s : State} {w : Word} (h : s.WordAtPc w) (hdecode : decodeWord w = none) :
    step s = .refused (.notInScope w) := by
  have hbytes : decodeBytes (bytesOfWord w) = .notInScope w := by simpa using decodeBytes_of_none hdecode []
  simp [step, fetch, h.aligned, h.belowTop, h.bytes, hbytes]

/-! Where there is no word. -/

theorem step_of_misaligned {s : State} (h : s.pc.toNat % 4 ≠ 0) : step s = .refused .pcMisaligned := by
  simp [step, fetch, h]

theorem step_of_top {s : State} (h : s.pc = topPc) : step s = .refused .pcAtTop := by
  have haligned : topPc.toNat % 4 = 0 := by decide
  simp [step, fetch, h, haligned]

/-- A word that lacks one byte is read as no byte at all. -/
theorem Memory.readWord_eq_nil {mem : List Host.Cell} {a k : Nat} (hk : k < 4) (h : Memory.read mem (a + k) = none) :
    Memory.readWord mem a = [] := by
  unfold Memory.readWord
  split
  next h0 h1 h2 h3 => interval_cases k <;> simp_all
  next => rfl

theorem step_of_missing_byte {s : State} {k : Nat} (haligned : s.pc.toNat % 4 = 0) (htop : s.pc ≠ topPc) (hk : k < 4)
    (h : Memory.read s.mem (s.pc.toNat + k) = none) : step s = .refused .outsideProgram := by
  simp [step, fetch, haligned, htop, Memory.readWord_eq_nil hk h, decodeBytes]

/-! A loaded program (20_memory.md R62). -/

theorem programFits_iff (base : DWord) (n : Nat) :
    programFits base n = true ↔ base.toNat % 4 = 0 ∧ base.toNat + 4 * n ≤ 2 ^ 64 := by
  simp only [programFits, Bool.and_eq_true, decide_eq_true_eq]

/-- The bytes from `4 * i` on are those of the word with the number `i`. -/
theorem programBytes_getElem? {prog : List Word} {i k : Nat} (h : i < prog.length) (hk : k < 4) :
    (programBytes prog)[4 * i + k]? = (bytesOfWord prog[i])[k]? := by
  induction prog generalizing i with
  | nil => simp at h
  | cons w rest ih =>
    cases i with
    | zero =>
      rw [Nat.mul_zero, Nat.zero_add, programBytes, List.getElem?_append_left hk]
      rfl
    | succ j =>
      have hindex : 4 * (j + 1) + k = (bytesOfWord w).length + (4 * j + k) := by simp [bytesOfWord]; omega
      rw [programBytes, hindex, List.getElem?_append_right (Nat.le_add_right ..), Nat.add_sub_cancel_left,
        ih (by simpa using h), List.getElem_cons_succ]

/-- The text of a loaded program has its bytes from `base` on, and no other. -/
theorem read_loadProgram {base : DWord} {prog : List Word} (hfits : programFits base prog.length = true) (s : State)
    (a : Nat) : Memory.read (loadProgram base prog s).mem a =
      if base.toNat ≤ a then (programBytes prog)[a - base.toNat]? else none := by
  obtain ⟨-, hfit⟩ := (programFits_iff ..).mp hfits
  rw [loadProgram_mem, Memory.read_writeBytes _ _ _ (by rwa [programBytes_length])]
  cases (programBytes prog)[a - base.toNat]? <;> simp [Memory.read]

/-- At `base + 4 * i` a loaded program has its word with the number `i`. -/
theorem wordAtPc_loadProgram {s : State} {base : DWord} {prog : List Word} {i : Nat}
    (hfits : programFits base prog.length = true) (haligned : s.pc.toNat % 4 = 0) (htop : s.pc ≠ topPc)
    (h : i < prog.length) (hpc : s.pc.toNat = base.toNat + 4 * i) :
    (loadProgram base prog s).WordAtPc prog[i] := by
  have hbyte (k : Nat) (hk : k < 4) :
      Memory.read (loadProgram base prog s).mem (s.pc.toNat + k) = (bytesOfWord prog[i])[k]? := by
    rw [read_loadProgram hfits, if_pos (by omega), ← programBytes_getElem? h hk]
    congr 1
    omega
  exact ⟨haligned, htop, Memory.readWord_eq (hbyte 0 (by omega)) (hbyte 1 (by omega)) (hbyte 2 (by omega))
    (hbyte 3 (by omega))⟩

/-- Outside a loaded program there is no word. -/
theorem step_loadProgram_outside {s : State} {base : DWord} {prog : List Word}
    (hfits : programFits base prog.length = true) (haligned : s.pc.toNat % 4 = 0) (htop : s.pc ≠ topPc)
    (hout : s.pc.toNat < base.toNat ∨ base.toNat + 4 * prog.length ≤ s.pc.toNat) :
    step (loadProgram base prog s) = .refused .outsideProgram := by
  have hnone : Memory.read (loadProgram base prog s).mem (s.pc.toNat + 0) = none := by
    rw [read_loadProgram hfits]
    split
    · rw [List.getElem?_eq_none (by rw [programBytes_length]; omega)]
    · rfl
  exact step_of_missing_byte haligned htop (by decide) hnone

end Sys2Proof.Machine

namespace Sys2Proof.Proofs

open Sys2Proof.Machine

/-- Settles O1: the decoder reads one word off the bytes, and accepts exactly the encoder's words. -/
theorem decodeBytesIffEncodedBytes : Obligations.DecodeBytesIffEncodedBytes := by
  unfold Obligations.DecodeBytesIffEncodedBytes
  exact fun _ _ _ => decodeBytes_eq_instr_iff

/-- Settles O2: the decoder accepts exactly the encoder's words, which the match and mask of each row pick out. -/
theorem decodeIffTableMatch : Obligations.DecodeIffTableMatch := by
  unfold Obligations.DecodeIffTableMatch
  exact fun w t => ⟨decodeWord_eq_some_iff.trans eq_encode_iff, decodeWord_eq_some_iff.trans eq_encode_iff,
    encode_eq_tableMatch_or (.mrs t), encode_eq_tableMatch_or (.msr t)⟩

/-- Settles O3: the fields of an encoded word are those of `mdcrWord`. -/
theorem everyWordCarriesSelector : Obligations.EveryWordCarriesSelector := by
  unfold Obligations.EveryWordCarriesSelector
  intro i
  cases i with
  | mrs t => simp [encode, mdcrWord]
  | msr t => simp [encode, mdcrWord]

/-- Settles O4: the decoder evaluated at six written-out inputs. -/
theorem sampleWordsDecode : Obligations.SampleWordsDecode := by
  unfold Obligations.SampleWordsDecode
  decide

/-- Settles O5: the four bytes are those of the instruction's word, which decodes to it. -/
theorem stepRunsDecodedInstruction : Obligations.StepRunsDecodedInstruction := by
  unfold Obligations.StepRunsDecodedInstruction
  intro s i b0 b1 b2 b3 haligned htop h0 h1 h2 h3 hdecode
  obtain ⟨w, hbytes, hw⟩ := exists_word_of_decodeBytes hdecode
  rw [List.append_nil, ← bytesOfWord_wordOfBytes] at hbytes
  exact (State.WordAtPc.of_bytes haligned htop h0 h1 h2 h3).step_of_some (bytesOfWord_injective hbytes ▸ hw)

/-- Settles O6: a word that matches neither row does not decode. -/
theorem otherWordsAreRefused : Obligations.OtherWordsAreRefused := by
  unfold Obligations.OtherWordsAreRefused
  intro s b0 b1 b2 b3 haligned htop h0 h1 h2 h3 hmrs hmsr
  exact (State.WordAtPc.of_bytes haligned htop h0 h1 h2 h3).step_of_none (decodeWord_eq_none hmrs hmsr)

/-- Settles O7: one refusal for each of the three ways in which there is no word. -/
theorem noStepWithoutInstruction : Obligations.NoStepWithoutInstruction := by
  unfold Obligations.NoStepWithoutInstruction
  exact fun s => ⟨step_of_misaligned, step_of_top,
    fun haligned htop ⟨_, hk, hnone⟩ => step_of_missing_byte haligned htop hk hnone⟩

/-- Settles O8: `wordAtPc_loadProgram` inside the program, `step_loadProgram_outside` outside it. -/
theorem loadedProgramIsExecuted : Obligations.LoadedProgramIsExecuted := by
  unfold Obligations.LoadedProgramIsExecuted
  intro s base prog hfits haligned htop
  refine ⟨fun i h hpc => ?_, step_loadProgram_outside hfits haligned htop⟩
  have hword := wordAtPc_loadProgram hfits haligned htop h hpc
  cases hdecode : decodeWord prog[i] with
  | none => exact hword.step_of_none hdecode
  | some j => exact hword.step_of_some hdecode

/-- Settles O9: the pc of a final state is past the last word, or at the top address. -/
theorem finalStateTakesNoStep : Obligations.FinalStateTakesNoStep := by
  unfold Obligations.FinalStateTakesNoStep
  intro s base prog hfits hfinal
  by_cases htop : s.pc = topPc
  · exact ⟨_, step_of_top htop⟩
  · have hbase := ((programFits_iff ..).mp hfits).1
    exact ⟨_, step_loadProgram_outside hfits (by omega) htop (.inr (by omega))⟩

end Sys2Proof.Proofs

/-! PROOF. The register bit by bit (10_state.md R48, R49): each bit of a read is the known bit of the one field that has
it, or the drawn bit; each bit of a write is kept by the field that has it. -/

namespace Sys2Proof.Machine

/-! Where a field stands, and which field has a bit. -/

/-- The lowest bit of a field (10_state.md R21). -/
def Field.lo : Field → Nat
  | .sccd => 23
  | .epmad => 21
  | .edad => 20
  | .ttrf => 19
  | .ste => 18
  | .spme => 17
  | .sdd => 16
  | .spd32 => 14
  | .nspb => 12
  | .tdosa => 10
  | .tda => 9
  | .tpm => 6

/-- How many bits a field has. -/
def Field.width : Field → Nat
  | .spd32 => 2
  | .nspb => 2
  | _ => 1

/-- The bits of a field are its `width` bits from `lo` on. -/
theorem Field.hasBit_iff {f : Field} {i : Nat} : f.hasBit i = true ↔ ∃ k < f.width, i = f.lo + k := by
  have hbounds : f.hasBit i = true ↔ f.lo ≤ i ∧ i < f.lo + f.width := by
    cases f <;> simp only [Field.hasBit, Field.lo, Field.width, Bool.or_eq_true, beq_iff_eq] <;> omega
  rw [hbounds]
  exact ⟨fun ⟨hlo, hhi⟩ => ⟨i - f.lo, by omega, by omega⟩, fun ⟨k, hk, hi⟩ => by omega⟩

theorem Field.hasBit_lo_add {f : Field} {k : Nat} (hk : k < f.width) : f.hasBit (f.lo + k) = true :=
  Field.hasBit_iff.mpr ⟨k, hk, rfl⟩

/-- The field that has a bit of the register: the figure of 10_state.md R21 read from the other side. -/
def fieldAt : Nat → Option Field
  | 23 => some .sccd
  | 21 => some .epmad
  | 20 => some .edad
  | 19 => some .ttrf
  | 18 => some .ste
  | 17 => some .spme
  | 16 => some .sdd
  | 15 => some .spd32
  | 14 => some .spd32
  | 13 => some .nspb
  | 12 => some .nspb
  | 10 => some .tdosa
  | 9 => some .tda
  | 6 => some .tpm
  | _ => none

theorem fieldAt_of_hasBit {f : Field} {i : Nat} (h : f.hasBit i = true) : fieldAt i = some f := by
  cases f with
  | spd32 | nspb =>
    simp only [Field.hasBit, Bool.or_eq_true, beq_iff_eq] at h
    obtain rfl | rfl := h <;> rfl
  | _ =>
    simp only [Field.hasBit, beq_iff_eq] at h
    subst h
    rfl

theorem hasBit_of_fieldAt {f : Field} {i : Nat} (h : fieldAt i = some f) : f.hasBit i = true := by
  unfold fieldAt at h
  split at h <;> cases h <;> rfl

/-- No two fields share a bit. -/
theorem Field.hasBit_eq_decide {f : Field} {i : Nat} (hf : f.hasBit i = true) (g : Field) :
    g.hasBit i = decide (g = f) := by
  rw [Bool.eq_iff_iff, decide_eq_true_eq]
  exact ⟨fun hg => Option.some.inj ((fieldAt_of_hasBit hg).symm.trans (fieldAt_of_hasBit hf)), fun h => h ▸ hf⟩

/-- At a bit of a field, `FMASK(cfg)` says whether the field exists. -/
theorem getLsbD_fmask_lo_add (cfg : Config) {f : Field} {k : Nat} (hk : k < f.width) :
    (fmask cfg).getLsbD (f.lo + k) = f.present cfg := by
  simp only [getLsbD_fmask, Field.hasBit_eq_decide (Field.hasBit_lo_add hk)]
  cases f <;> simp

/-- Every position of `FMASK(cfg)` is a bit of a field that exists. -/
theorem exists_field_of_fmask {cfg : Config} {i : Nat} (h : (fmask cfg).getLsbD i = true) :
    ∃ f : Field, f.present cfg = true ∧ ∃ k < f.width, i = f.lo + k := by
  simp only [getLsbD_fmask, List.any_eq_true, Bool.and_eq_true] at h
  obtain ⟨f, -, hpresent, hbit⟩ := h
  exact ⟨f, hpresent, Field.hasBit_iff.mp hbit⟩

/-! The known bits of an image. -/

/-- Bit `k` of a one-value field, where its value is known. -/
def FieldVal.bit {n : Nat} (f : FieldVal n) (k : Nat) : Option Bool :=
  match f with
  | .known v => some (v.getLsbD k)
  | .unknown => none

/-- Bit `k` of SPD32, where a read of it is promised. -/
def Spd32Val.bit (f : Spd32Val) (k : Nat) : Option Bool :=
  match f with
  | .known v => some (v.getLsbD k)
  | .reserved01 => none
  | .unknown => none

/-- Bit `k` of a field of the image, where a read of it is promised. -/
def Mdcr.bit (m : Mdcr) : Field → Nat → Option Bool
  | .sccd => m.sccd.bit
  | .epmad => m.epmad.bit
  | .edad => m.edad.bit
  | .ttrf => m.ttrf.bit
  | .ste => m.ste.bit
  | .spme => m.spme.bit
  | .sdd => m.sdd.bit
  | .spd32 => m.spd32.bit
  | .nspb => m.nspb.bit
  | .tdosa => m.tdosa.bit
  | .tda => m.tda.bit
  | .tpm => m.tpm.bit

@[simp] theorem FieldVal.isSome_bit {n : Nat} (f : FieldVal n) (k : Nat) : (f.bit k).isSome = f.isKnown := by
  cases f <;> rfl

@[simp] theorem Spd32Val.isSome_bit (f : Spd32Val) (k : Nat) : (f.bit k).isSome = f.isKnown := by
  cases f <;> rfl

/-- At a bit of a field, the mask of promised positions says whether the field exists and is known. -/
theorem getLsbD_knownMask_lo_add (cfg : Config) (m : Mdcr) {f : Field} {k : Nat} (hk : k < f.width) :
    (knownMask cfg m).getLsbD (f.lo + k) = (f.present cfg && (m.bit f k).isSome) := by
  simp only [knownMask, BitVec.getLsbD_or, Field.knownMaskIn_getLsbD, Field.getLsbD_mask,
    Field.hasBit_eq_decide (Field.hasBit_lo_add hk)]
  cases f <;> simp [Mdcr.bit]

/-- Every promised position is one of `FMASK(cfg)`. -/
theorem getLsbD_fmask_of_knownMask {cfg : Config} {m : Mdcr} {i : Nat} (h : (knownMask cfg m).getLsbD i = true) :
    (fmask cfg).getLsbD i = true := by
  by_contra hnot
  simp only [fmask, BitVec.getLsbD_or, Field.getLsbD_maskIn, Bool.or_eq_true, not_or, Bool.not_eq_true] at hnot
  simp [knownMask, Field.knownMaskIn_getLsbD, Field.getLsbD_mask, Bool.and_right_comm, hnot] at h

/-! What a read shows (R48). -/

/-- A bit in the slice of a one-value field: the known one where the field exists and is known, else the drawn one. -/
theorem FieldVal.getLsbD_of_readBits {v d : DWord} {lo n : Nat} {b : Bool} {f : FieldVal n}
    (h : v.extractLsb' lo n = f.readBits b (d.extractLsb' lo n)) {k : Nat} (hk : k < n) :
    v.getLsbD (lo + k) = if b then (f.bit k).getD (d.getLsbD (lo + k)) else d.getLsbD (lo + k) := by
  have hbit := congrArg (BitVec.getLsbD · k) h
  cases b <;> cases f <;> simpa [FieldVal.readBits, FieldVal.sample, FieldVal.bit, hk] using hbit

/-- The same for the slice of SPD32. -/
theorem Spd32Val.getLsbD_of_readBits {v d : DWord} {lo : Nat} {b : Bool} {f : Spd32Val}
    (h : v.extractLsb' lo 2 = f.readBits b (d.extractLsb' lo 2)) {k : Nat} (hk : k < 2) :
    v.getLsbD (lo + k) = if b then (f.bit k).getD (d.getLsbD (lo + k)) else d.getLsbD (lo + k) := by
  have hbit := congrArg (BitVec.getLsbD · k) h
  cases b <;> cases f <;> simpa [Spd32Val.readBits, Spd32Val.sample, Spd32Val.bit, hk] using hbit

/-- A read shows the known bit of each field that exists and is known, and the drawn bit of each other field. -/
theorem getLsbD_readValue_lo_add (cfg : Config) (m : Mdcr) (d : DWord) {f : Field} {k : Nat} (hk : k < f.width) :
    (readValue cfg m d).getLsbD (f.lo + k) =
      if f.present cfg then (m.bit f k).getD (d.getLsbD (f.lo + k)) else d.getLsbD (f.lo + k) := by
  cases f with
  | sccd => exact FieldVal.getLsbD_of_readBits (readValue_sccd cfg m d) hk
  | epmad => exact FieldVal.getLsbD_of_readBits (readValue_epmad cfg m d) hk
  | edad => exact FieldVal.getLsbD_of_readBits (readValue_edad cfg m d) hk
  | ttrf => exact FieldVal.getLsbD_of_readBits (readValue_ttrf cfg m d) hk
  | ste => exact FieldVal.getLsbD_of_readBits (readValue_ste cfg m d) hk
  | spme => exact FieldVal.getLsbD_of_readBits (readValue_spme cfg m d) hk
  | sdd => exact FieldVal.getLsbD_of_readBits (readValue_sdd cfg m d) hk
  | spd32 => exact Spd32Val.getLsbD_of_readBits (readValue_spd32 cfg m d) hk
  | nspb => exact FieldVal.getLsbD_of_readBits (readValue_nspb cfg m d) hk
  | tdosa => exact FieldVal.getLsbD_of_readBits (readValue_tdosa cfg m d) hk
  | tda => exact FieldVal.getLsbD_of_readBits (readValue_tda cfg m d) hk
  | tpm => exact FieldVal.getLsbD_of_readBits (readValue_tpm cfg m d) hk

theorem FieldVal.readBits_of_known {n : Nat} {b : Bool} {f : FieldVal n} {v : BitVec n} (hb : b = true)
    (hf : f = .known v) (d : BitVec n) : f.readBits b d = v := by
  rw [hb, hf]
  rfl

theorem Spd32Val.readBits_of_known {b : Bool} {f : Spd32Val} {v : BitVec 2} (hb : b = true) (hf : f = .known v)
    (d : BitVec 2) : f.readBits b d = v := by
  rw [hb, hf]
  rfl

/-- Two values that agree on a slice agree on its bits. -/
theorem getLsbD_eq_of_extractLsb'_eq {v w : DWord} {lo n i : Nat} (h : v.extractLsb' lo n = w.extractLsb' lo n)
    (hlo : lo ≤ i) (hhi : i < lo + n) : v.getLsbD i = w.getLsbD i := by
  obtain ⟨k, rfl⟩ := Nat.exists_eq_add_of_le hlo
  simpa [show k < n by omega] using congrArg (BitVec.getLsbD · k) h

/-- The positions no field has: the RES0 bits of every configuration (R22). -/
theorem reserved_of_fieldAt_none {i : Nat} (h : fieldAt i = none) :
    24 ≤ i ∨ i = 22 ∨ i = 11 ∨ (7 ≤ i ∧ i < 9) ∨ i < 6 := by
  unfold fieldAt at h
  split at h <;> simp only [reduceCtorEq] at h
  simp only [imp_false] at *
  omega

/-- A read shows the drawn bit at every position no field has (R35). -/
theorem getLsbD_readValue_of_no_field (cfg : Config) (m : Mdcr) (d : DWord) {i : Nat} (hi : i < 64)
    (h : fieldAt i = none) : (readValue cfg m d).getLsbD i = d.getLsbD i := by
  obtain h | rfl | rfl | ⟨hlo, hhi⟩ | h := reserved_of_fieldAt_none h
  · exact getLsbD_eq_of_extractLsb'_eq (readValue_bits63to24 cfg m d) h hi
  · exact getLsbD_eq_of_extractLsb'_eq (readValue_bit22 cfg m d) le_rfl (by decide)
  · exact getLsbD_eq_of_extractLsb'_eq (readValue_bit11 cfg m d) le_rfl (by decide)
  · exact getLsbD_eq_of_extractLsb'_eq (readValue_bits8to7 cfg m d) hlo hhi
  · exact getLsbD_eq_of_extractLsb'_eq (readValue_bits5to0 cfg m d) (Nat.zero_le i) (by omega)

/-- The bit of a field shows its known value, whatever is drawn. -/
theorem getLsbD_readValue_of_bit {cfg : Config} {m : Mdcr} {f : Field} {k : Nat} {b : Bool} (hk : k < f.width)
    (hpresent : f.present cfg = true) (hbit : m.bit f k = some b) (d : DWord) :
    (readValue cfg m d).getLsbD (f.lo + k) = b := by
  rw [getLsbD_readValue_lo_add cfg m d hk, if_pos hpresent, hbit, Option.getD_some]

/-- A promised position is the bit of a field that exists, and the field keeps a known bit there. -/
theorem exists_bit_of_knownMask {cfg : Config} {m : Mdcr} {i : Nat} (h : (knownMask cfg m).getLsbD i = true) :
    ∃ f : Field, f.present cfg = true ∧ ∃ k < f.width, i = f.lo + k ∧ ∃ b, m.bit f k = some b := by
  obtain ⟨f, hpresent, k, hk, rfl⟩ := exists_field_of_fmask (getLsbD_fmask_of_knownMask h)
  rw [getLsbD_knownMask_lo_add cfg m hk, hpresent, Bool.true_and] at h
  exact ⟨f, hpresent, k, hk, rfl, Option.isSome_iff_exists.mp h⟩

/-- A read shows the drawn bit at every position it does not promise. -/
theorem getLsbD_readValue_of_not_knownMask {cfg : Config} {m : Mdcr} (d : DWord) {i : Nat} (hi : i < 64)
    (h : (knownMask cfg m).getLsbD i = false) : (readValue cfg m d).getLsbD i = d.getLsbD i := by
  cases hat : fieldAt i with
  | none => exact getLsbD_readValue_of_no_field cfg m d hi hat
  | some f =>
    obtain ⟨k, hk, rfl⟩ := Field.hasBit_iff.mp (hasBit_of_fieldAt hat)
    rw [getLsbD_knownMask_lo_add cfg m hk] at h
    rw [getLsbD_readValue_lo_add cfg m d hk]
    cases hpresent : f.present cfg with
    | false => rfl
    | true =>
      rw [hpresent, Bool.true_and, Option.isSome_eq_false_iff, Option.isNone_iff_eq_none] at h
      rw [h]
      rfl

/-- A read shows the stored bit at every position it promises. -/
theorem getLsbD_readValue_of_knownMask {cfg : Config} {m : Mdcr} (d : DWord) {i : Nat}
    (h : (knownMask cfg m).getLsbD i = true) : (readValue cfg m d).getLsbD i = (storedValue cfg m).getLsbD i := by
  obtain ⟨f, hpresent, k, hk, rfl, b, hbit⟩ := exists_bit_of_knownMask h
  rw [storedValue, getLsbD_readValue_of_bit hk hpresent hbit, getLsbD_readValue_of_bit hk hpresent hbit]

/-- The stored value is 0 at every position a read does not promise. -/
theorem getLsbD_storedValue_of_not_knownMask {cfg : Config} {m : Mdcr} {i : Nat} (hi : i < 64)
    (h : (knownMask cfg m).getLsbD i = false) : (storedValue cfg m).getLsbD i = false := by
  rw [storedValue, getLsbD_readValue_of_not_knownMask 0 hi h, BitVec.ofNat_eq_ofNat, BitVec.getLsbD_zero]

/-! What a write keeps (R49). -/

theorem FieldVal.written_of_exists {n : Nat} {b : Bool} (v : BitVec n) (hb : b = true) :
    FieldVal.written b v = .known v := by
  rw [hb]
  rfl

theorem Spd32Val.written_of_ne_reserved {b : Bool} {v : BitVec 2} (hb : b = true) (hv : v ≠ 0b01#2) :
    Spd32Val.written b v = .known v := by
  simp [Spd32Val.written, hb, hv]

theorem Spd32Val.written_of_reserved {b : Bool} {v : BitVec 2} (hb : b = true) (hv : v = 0b01#2) :
    Spd32Val.written b v = .reserved01 := by
  simp [Spd32Val.written, hb, hv]

/-- A write makes each bit of a field that exists known, but for SPD32 where its bits are the reserved 0b01. -/
theorem bit_writeValue {cfg : Config} {w : DWord} {f : Field} {k : Nat} (hk : k < f.width)
    (hpresent : f.present cfg = true) (hreserved : f = .spd32 → w.extractLsb' 14 2 ≠ 0b01#2) :
    (writeValue cfg w).bit f k = some (w.getLsbD (f.lo + k)) := by
  have hslice {lo n : Nat} (hk : k < n) : (w.extractLsb' lo n).getLsbD k = w.getLsbD (lo + k) := by simp [hk]
  cases f with
  | spd32 =>
    have hwritten := Spd32Val.written_of_ne_reserved hpresent (hreserved rfl)
    exact (congrArg (Spd32Val.bit · k) hwritten).trans (congrArg some (hslice hk))
  | _ =>
    exact (congrArg (FieldVal.bit · k) (FieldVal.written_of_exists _ hpresent)).trans (congrArg some (hslice hk))

/-- Two values that agree on `FMASK(cfg)` agree on the bits of each field that exists. -/
theorem extractLsb'_eq_of_fmask_eq {cfg : Config} {v w : DWord} (h : v &&& fmask cfg = w &&& fmask cfg) (f : Field)
    (hpresent : f.present cfg = true) : v.extractLsb' f.lo f.width = w.extractLsb' f.lo f.width := by
  apply BitVec.eq_of_getLsbD_eq
  intro k hk
  have hbit := congrArg (BitVec.getLsbD · (f.lo + k)) h
  simpa [getLsbD_fmask_lo_add cfg hk, hpresent, hk] using hbit

/-- A field that does not exist drops what is written. -/
theorem FieldVal.written_congr {n : Nat} {b : Bool} {v w : BitVec n} (h : b = true → v = w) :
    FieldVal.written b v = FieldVal.written b w := by
  cases b with
  | false => rfl
  | true => rw [h rfl]

theorem Spd32Val.written_congr {b : Bool} {v w : BitVec 2} (h : b = true → v = w) :
    Spd32Val.written b v = Spd32Val.written b w := by
  cases b with
  | false => rfl
  | true => rw [h rfl]

/-- What a write stores depends on the operand's bits in `FMASK(cfg)` alone. -/
theorem writeValue_eq_of_fmask_eq {cfg : Config} {v w : DWord} (h : v &&& fmask cfg = w &&& fmask cfg) :
    writeValue cfg v = writeValue cfg w := by
  have hslice := extractLsb'_eq_of_fmask_eq h
  simp only [writeValue, Mdcr.mk.injEq]
  exact ⟨FieldVal.written_congr (hslice .sccd), FieldVal.written_congr (hslice .epmad),
    FieldVal.written_congr (hslice .edad), FieldVal.written_congr (hslice .ttrf),
    FieldVal.written_congr (hslice .ste), FieldVal.written_congr (hslice .spme),
    FieldVal.written_congr (hslice .sdd), Spd32Val.written_congr (hslice .spd32),
    FieldVal.written_congr (hslice .nspb), FieldVal.written_congr (hslice .tdosa),
    FieldVal.written_congr (hslice .tda), FieldVal.written_congr (hslice .tpm)⟩

/-- An image keeps no known 0b01 in SPD32 and no state in a field that does not exist, after every write. -/
theorem writeValue_wf (cfg : Config) (w : DWord) : (writeValue cfg w).wf cfg = true := by
  have hfield {n : Nat} (b : Bool) (v : BitVec n) : (FieldVal.written b v).wf b = true := by
    cases b <;> simp [FieldVal.wf, FieldVal.written]
  have hspd32 (b : Bool) (v : BitVec 2) : (Spd32Val.written b v).wf b = true := by
    cases b
    · rfl
    · by_cases hv : v = 0b01#2 <;> simp [Spd32Val.wf, Spd32Val.written, hv]
  simp only [Mdcr.wf, writeValue, hfield, hspd32, Bool.and_self]

/-! Save and restore (40_sysreg_access.md R91(f)). -/

/-- A read shows SPD32 as no reserved value, where it is known in an image the rules can leave. -/
theorem readValue_spd32_ne_reserved {cfg : Config} {m : Mdcr} (hwf : m.wf cfg = true)
    (hpresent : Field.spd32.present cfg = true) {k : Nat} {b : Bool} (hbit : m.bit .spd32 k = some b) (d : DWord) :
    (readValue cfg m d).extractLsb' 14 2 ≠ 0b01#2 := by
  have hspd32 : m.spd32.wf (Field.spd32.present cfg) = true := by
    simp only [Mdcr.wf, Bool.and_eq_true] at hwf
    tauto
  rw [readValue_spd32, hpresent]
  cases h : m.spd32 with
  | known v =>
    rw [h] at hspd32
    simp [Spd32Val.wf] at hspd32
    simpa [Spd32Val.readBits, Spd32Val.sample] using hspd32.2
  | reserved01 => simp [Mdcr.bit, Spd32Val.bit, h] at hbit
  | unknown => simp [Mdcr.bit, Spd32Val.bit, h] at hbit

/-- A known bit of an image is known with the same value after the value read is written back. -/
theorem bit_writeValue_readValue {cfg : Config} {m : Mdcr} (hwf : m.wf cfg = true) {f : Field} {k : Nat} {b : Bool}
    (hk : k < f.width) (hpresent : f.present cfg = true) (hbit : m.bit f k = some b) (d : DWord) :
    (writeValue cfg (readValue cfg m d)).bit f k = some b := by
  rw [bit_writeValue hk hpresent, getLsbD_readValue_of_bit hk hpresent hbit]
  rintro rfl
  exact readValue_spd32_ne_reserved hwf hpresent hbit d

end Sys2Proof.Machine

namespace Sys2Proof.Proofs

open Sys2Proof.Machine

/-- Settles O11: the slice of a field shows its value, and a position that is not promised the drawn bit. -/
theorem readShowsKnownFieldsInPlace : Obligations.ReadShowsKnownFieldsInPlace := by
  unfold Obligations.ReadShowsKnownFieldsInPlace
  intro cfg m d
  refine ⟨fun _ hp hv => (readValue_sccd cfg m d).trans (FieldVal.readBits_of_known hp hv _),
    fun _ hp hv => (readValue_epmad cfg m d).trans (FieldVal.readBits_of_known hp hv _),
    fun _ hp hv => (readValue_edad cfg m d).trans (FieldVal.readBits_of_known hp hv _),
    fun _ hp hv => (readValue_ttrf cfg m d).trans (FieldVal.readBits_of_known hp hv _),
    fun _ hp hv => (readValue_ste cfg m d).trans (FieldVal.readBits_of_known hp hv _),
    fun _ hp hv => (readValue_spme cfg m d).trans (FieldVal.readBits_of_known hp hv _),
    fun _ hp hv => (readValue_sdd cfg m d).trans (FieldVal.readBits_of_known hp hv _),
    fun _ hp hv => (readValue_spd32 cfg m d).trans (Spd32Val.readBits_of_known hp hv _),
    fun _ hp hv => (readValue_nspb cfg m d).trans (FieldVal.readBits_of_known hp hv _),
    fun _ hp hv => (readValue_tdosa cfg m d).trans (FieldVal.readBits_of_known hp hv _),
    fun _ hp hv => (readValue_tda cfg m d).trans (FieldVal.readBits_of_known hp hv _),
    fun _ hp hv => (readValue_tpm cfg m d).trans (FieldVal.readBits_of_known hp hv _), ?_⟩
  apply BitVec.eq_of_getLsbD_eq
  intro i hi
  cases hknown : (knownMask cfg m).getLsbD i with
  | true => simp [hknown]
  | false => simp [hknown, getLsbD_readValue_of_not_knownMask d hi hknown]

/-- Settles O12: a position that is promised shows the stored bit, any other one the drawn bit, where 0 is stored. -/
theorem readIsStoredValueAndDraw : Obligations.ReadIsStoredValueAndDraw := by
  unfold Obligations.ReadIsStoredValueAndDraw
  intro cfg m d
  refine ⟨BitVec.eq_of_getLsbD_eq fun i hi => ?_, BitVec.eq_of_getLsbD_eq fun i hi => ?_,
    BitVec.eq_of_getLsbD_eq fun i hi => ?_⟩
  · rw [BitVec.getLsbD_or, BitVec.getLsbD_and, BitVec.getLsbD_not]
    cases hknown : (knownMask cfg m).getLsbD i with
    | true => simp [getLsbD_readValue_of_knownMask d hknown]
    | false =>
      rw [getLsbD_readValue_of_not_knownMask d hi hknown, getLsbD_storedValue_of_not_knownMask hi hknown]
      simp [hi]
  · rw [BitVec.getLsbD_and, BitVec.getLsbD_not]
    cases hknown : (knownMask cfg m).getLsbD i with
    | true => simp
    | false => simp [getLsbD_storedValue_of_not_knownMask hi hknown]
  · rw [BitVec.getLsbD_and, getLsbD_res0mask cfg hi]
    cases hknown : (knownMask cfg m).getLsbD i with
    | true => simp [getLsbD_fmask_of_knownMask hknown]
    | false => simp

/-- Settles O13: each field is written at its bits, and `writeValue_eq_of_fmask_eq` for the bits of no field. -/
theorem writeStoresEveryField : Obligations.WriteStoresEveryField := by
  unfold Obligations.WriteStoresEveryField
  exact fun cfg w => ⟨FieldVal.written_of_exists _, FieldVal.written_of_exists _, FieldVal.written_of_exists _,
    FieldVal.written_of_exists _, FieldVal.written_of_exists _, FieldVal.written_of_exists _,
    FieldVal.written_of_exists _, Spd32Val.written_of_ne_reserved, Spd32Val.written_of_reserved,
    FieldVal.written_of_exists _, FieldVal.written_of_exists _, FieldVal.written_of_exists _,
    FieldVal.written_of_exists _, fun _ h => writeValue_eq_of_fmask_eq h.symm⟩

end Sys2Proof.Proofs

/-! PROOF. The two instructions (40_sysreg_access.md R90 to R92), what a step can do, and the invariant of the
machine. -/

namespace Sys2Proof.Machine

/-! Reading a source register. -/

@[simp] theorem sourceX_cfg (t : RegNum) (s : State) : (sourceX t s).2.cfg = s.cfg := by
  unfold sourceX; split <;> rfl
@[simp] theorem sourceX_mdcr (t : RegNum) (s : State) : (sourceX t s).2.mdcr = s.mdcr := by
  unfold sourceX; split <;> rfl
@[simp] theorem sourceX_x (t : RegNum) (s : State) : (sourceX t s).2.x = s.x := by
  unfold sourceX; split <;> rfl
@[simp] theorem sourceX_pc (t : RegNum) (s : State) : (sourceX t s).2.pc = s.pc := by
  unfold sourceX; split <;> rfl
@[simp] theorem sourceX_el (t : RegNum) (s : State) : (sourceX t s).2.el = s.el := by
  unfold sourceX; split <;> rfl
@[simp] theorem sourceX_pending (t : RegNum) (s : State) : (sourceX t s).2.pending = s.pending := by
  unfold sourceX; split <;> rfl
@[simp] theorem sourceX_mem (t : RegNum) (s : State) : (sourceX t s).2.mem = s.mem := by
  unfold sourceX; split <;> rfl

/-! The state an instruction leaves where it completes. -/

/-- The state after `MRS <Xt>, MDCR_EL3` (R90). -/
def afterMrs (t : RegNum) (s : State) : State :=
  advancePc (writeX t (sourceMdcr s).1 (sourceMdcr s).2)

/-- The state after `MSR MDCR_EL3, <Xt>` (R91). -/
def afterMsr (t : RegNum) (s : State) : State :=
  advancePc (destMdcr (sourceX t s).1 (sourceX t s).2)

@[simp] theorem afterMrs_cfg (t : RegNum) (s : State) : (afterMrs t s).cfg = s.cfg := by simp [afterMrs, sourceMdcr_eq]
@[simp] theorem afterMrs_mdcr (t : RegNum) (s : State) : (afterMrs t s).mdcr = s.mdcr := by
  simp [afterMrs, sourceMdcr_eq]
@[simp] theorem afterMrs_pc (t : RegNum) (s : State) : (afterMrs t s).pc = s.pc + 4 := by
  simp [afterMrs, sourceMdcr_eq]
@[simp] theorem afterMrs_el (t : RegNum) (s : State) : (afterMrs t s).el = s.el := by simp [afterMrs, sourceMdcr_eq]
@[simp] theorem afterMrs_pending (t : RegNum) (s : State) : (afterMrs t s).pending = s.pending := by
  simp [afterMrs, sourceMdcr_eq]
@[simp] theorem afterMrs_mem (t : RegNum) (s : State) : (afterMrs t s).mem = s.mem := by simp [afterMrs, sourceMdcr_eq]
@[simp] theorem afterMrs_draws (t : RegNum) (s : State) : (afterMrs t s).draws = s.draws + 1 := by
  simp [afterMrs, sourceMdcr_eq]

/-- After an MRS the register it names holds the value read. -/
theorem readX_afterMrs_same {t : RegNum} (h : t ≠ 31#5) (s : State) :
    readX t (afterMrs t s) = .known (readValue s.cfg s.mdcr (Config.freeBits s.draws)) :=
  (readX_congr (advancePc_x _) t).trans (readX_writeX_same h _ _)

/-- An MRS leaves every other register alone, and all of them where it names the zero register. -/
theorem readX_afterMrs_other {t r : RegNum} (h : r ≠ t ∨ t = 31#5) (s : State) :
    readX r (afterMrs t s) = readX r s := by
  have hdraw : readX r (draw s).2 = readX r s := readX_congr (draw_state_x s) r
  refine (readX_congr (advancePc_x _) r).trans (Eq.trans ?_ hdraw)
  obtain hne | rfl := h
  · exact readX_writeX_other hne _ _
  · rw [writeX_zr]
    rfl

@[simp] theorem afterMsr_cfg (t : RegNum) (s : State) : (afterMsr t s).cfg = s.cfg := by simp [afterMsr]
@[simp] theorem afterMsr_mdcr (t : RegNum) (s : State) : (afterMsr t s).mdcr = writeValue s.cfg (sourceX t s).1 := by
  simp [afterMsr]
@[simp] theorem afterMsr_x (t : RegNum) (s : State) : (afterMsr t s).x = s.x := by simp [afterMsr]
@[simp] theorem afterMsr_pc (t : RegNum) (s : State) : (afterMsr t s).pc = s.pc + 4 := by simp [afterMsr]
@[simp] theorem afterMsr_el (t : RegNum) (s : State) : (afterMsr t s).el = s.el := by simp [afterMsr]
@[simp] theorem afterMsr_pending (t : RegNum) (s : State) : (afterMsr t s).pending = s.pending ++ [s.mdcr] := by
  simp [afterMsr]
@[simp] theorem afterMsr_mem (t : RegNum) (s : State) : (afterMsr t s).mem = s.mem := by simp [afterMsr]
@[simp] theorem afterMsr_draws (t : RegNum) (s : State) : (afterMsr t s).draws = (sourceX t s).2.draws := by
  simp [afterMsr]

/-- After an MSR of a known value the register is that value written. -/
theorem afterMsr_mdcr_of_known {t : RegNum} {s : State} {w : DWord} (h : readX t s = .known w) :
    (afterMsr t s).mdcr = writeValue s.cfg w := by
  rw [afterMsr_mdcr, sourceX_known h]

/-! What `exec` answers. -/

/-- MRS completes exactly at EL3 and below the top. -/
theorem exec_mrs_eq_next_iff {t : RegNum} {s u : State} :
    exec (.mrs t) s = .next u ↔ s.el = .el3 ∧ s.pc ≠ topPc ∧ u = afterMrs t s := by
  rw [exec, execMrs, onlyAtEL3_eq_next_iff, complete_eq_next_iff, writeX_pc, sourceMdcr_eq, draw_state_pc]
  rfl

/-- MSR completes exactly at EL3 and below the top. -/
theorem exec_msr_eq_next_iff {t : RegNum} {s u : State} :
    exec (.msr t) s = .next u ↔ s.el = .el3 ∧ s.pc ≠ topPc ∧ u = afterMsr t s := by
  rw [exec, execMsr, onlyAtEL3_eq_next_iff, complete_eq_next_iff, destMdcr_pc, sourceX_pc]
  rfl

theorem exec_mrs {t : RegNum} {s : State} (hel : s.el = .el3) (htop : s.pc ≠ topPc) :
    exec (.mrs t) s = .next (afterMrs t s) :=
  exec_mrs_eq_next_iff.mpr ⟨hel, htop, rfl⟩

theorem exec_msr {t : RegNum} {s : State} (hel : s.el = .el3) (htop : s.pc ≠ topPc) :
    exec (.msr t) s = .next (afterMsr t s) :=
  exec_msr_eq_next_iff.mpr ⟨hel, htop, rfl⟩

/-- Below EL3 both instructions are UNDEFINED (R92). -/
theorem exec_of_ne_el3 (i : Instr) {s : State} (h : s.el ≠ .el3) :
    exec i s = .fault (.undefined s.pc (encode i) s.el) := by
  cases i with
  | mrs t => exact onlyAtEL3_of_ne_el3 h _
  | msr t => exact onlyAtEL3_of_ne_el3 h _

theorem complete_of_top {s : State} (h : s.pc = topPc) : complete s = .refused .pcAtTop := by
  simp [complete, h]

/-- At EL3 both instructions are refused where the pc would wrap (10_state.md R41). -/
theorem exec_of_top (i : Instr) {s : State} (hel : s.el = .el3) (htop : s.pc = topPc) :
    exec i s = .refused .pcAtTop := by
  cases i with
  | mrs t =>
    exact (onlyAtEL3_of_el3 hel _).trans (complete_of_top (by rw [writeX_pc, sourceMdcr_eq, draw_state_pc, htop]))
  | msr t => exact (onlyAtEL3_of_el3 hel _).trans (complete_of_top (by rw [destMdcr_pc, sourceX_pc, htop]))

/-! What a step can do. -/

/-- A step that completes is taken at EL3, below the top and at an aligned pc, and leaves the state after the MRS or
the MSR it fetched. -/
theorem step_cases {s t : State} (h : step s = .next t) :
    s.el = .el3 ∧ s.pc.toNat % 4 = 0 ∧
      ((∃ r, fetch s = .ok (.mrs r) ∧ t = afterMrs r s) ∨ ∃ r, fetch s = .ok (.msr r) ∧ t = afterMsr r s) := by
  obtain ⟨i, hfetch, hexec⟩ := step_eq_next h
  have haligned := (fetch_eq_ok_iff.mp hfetch).1
  cases i with
  | mrs r =>
    obtain ⟨hel, -, rfl⟩ := exec_mrs_eq_next_iff.mp hexec
    exact ⟨hel, haligned, .inl ⟨r, hfetch, rfl⟩⟩
  | msr r =>
    obtain ⟨hel, -, rfl⟩ := exec_msr_eq_next_iff.mp hexec
    exact ⟨hel, haligned, .inr ⟨r, hfetch, rfl⟩⟩

/-- What every step leaves alone, and where it leaves the pc. -/
theorem step_frame {s t : State} (h : step s = .next t) :
    t.cfg = s.cfg ∧ t.el = s.el ∧ t.mem = s.mem ∧ t.pc = s.pc + 4 := by
  obtain ⟨-, -, ⟨r, -, rfl⟩ | ⟨r, -, rfl⟩⟩ := step_cases h <;> simp

/-! The invariant. -/

/-- The pc of a state after the next one is aligned where the pc was. -/
theorem aligned_add_four {pc : DWord} (h : pc.toNat % 4 = 0) : (pc + 4).toNat % 4 = 0 := by
  rw [BitVec.toNat_add]
  simp only [BitVec.ofNat_eq_ofNat, BitVec.toNat_ofNat]
  omega

/-- A step leaves images the rules allow: an MRS keeps them, and an MSR writes one and appends the one it replaces. -/
theorem step_keeps_images_wf {s t : State} (h : step s = .next t) (hmdcr : s.mdcr.wf s.cfg = true)
    (hpending : ∀ m ∈ s.pending, m.wf s.cfg = true) :
    t.mdcr.wf s.cfg = true ∧ ∀ m ∈ t.pending, m.wf s.cfg = true := by
  obtain ⟨-, -, ⟨r, -, rfl⟩ | ⟨r, -, rfl⟩⟩ := step_cases h
  · rw [afterMrs_mdcr, afterMrs_pending]
    exact ⟨hmdcr, hpending⟩
  · rw [afterMsr_mdcr, afterMsr_pending]
    refine ⟨writeValue_wf _ _, fun m hm => ?_⟩
    obtain hold | hnew := List.mem_append.mp hm
    · exact hpending m hold
    · rwa [List.mem_singleton.mp hnew]

/-- Every step keeps the invariant. -/
theorem State.Inv.step {s t : State} (hinv : s.Inv) (h : Machine.step s = .next t) : t.Inv := by
  obtain ⟨hcfg, -, hel, hmdcr, hpending, hmem⟩ := hinv
  obtain ⟨hcfg', hel', hmem', hpc'⟩ := step_frame h
  obtain ⟨-, haligned, -⟩ := step_cases h
  obtain ⟨hmdcr', hpending'⟩ := step_keeps_images_wf h hmdcr hpending
  rw [State.Inv, hcfg', hel', hmem', hpc']
  exact ⟨hcfg, aligned_add_four haligned, hel, hmdcr', hpending', hmem⟩

/-- A context synchronisation event keeps the invariant: nothing is pending after it. -/
theorem State.Inv.sync {s : State} (hinv : s.Inv) : (contextSync s).Inv := by
  obtain ⟨hcfg, haligned, hel, hmdcr, -, hmem⟩ := hinv
  exact ⟨hcfg, haligned, hel, hmdcr, by simp, hmem⟩

/-- A move keeps the invariant, the configuration, the level and the program text. -/
theorem Move.keeps {s t : State} (m : Move s t) (hinv : s.Inv) :
    t.Inv ∧ t.cfg = s.cfg ∧ t.el = s.el ∧ t.mem = s.mem := by
  cases m with
  | step h =>
    obtain ⟨hcfg, hel, hmem, -⟩ := step_frame h
    exact ⟨hinv.step h, hcfg, hel, hmem⟩
  | sync => exact ⟨hinv.sync, rfl, rfl, rfl⟩

end Sys2Proof.Machine

namespace Sys2Proof.Proofs

open Sys2Proof.Machine

/-- Settles O24: `State.Inv.step`, which rests on what `step_frame` and `step_keeps_images_wf` say of each part. -/
theorem stepKeepsInvariant : Obligations.StepKeepsInvariant := by
  unfold Obligations.StepKeepsInvariant
  exact fun _ _ hinv h => hinv.step h

/-- Settles O26, by induction over the moves of the run. -/
theorem runKeepsInvariantAndLevel : Obligations.RunKeepsInvariantAndLevel := by
  unfold Obligations.RunKeepsInvariantAndLevel
  intro k s t hrun hinv
  induction hrun with
  | start => exact ⟨hinv, rfl, rfl, rfl⟩
  | more _ m ih =>
    obtain ⟨hinv', hcfg, hel, hmem⟩ := ih hinv
    obtain ⟨hinv'', hcfg', hel', hmem'⟩ := m.keeps hinv'
    exact ⟨hinv'', hcfg'.trans hcfg, hel'.trans hel, hmem'.trans hmem⟩

/-- Settles O14: `exec_mrs`, and what `afterMrs` leaves in each piece of state. -/
theorem mrsReadsRegisterAtEl3 : Obligations.MrsReadsRegisterAtEl3 := by
  unfold Obligations.MrsReadsRegisterAtEl3
  intro s t hel htop
  exact ⟨_, exec_mrs hel htop, fun ht => readX_afterMrs_same ht s, fun _ hr => readX_afterMrs_other hr s,
    afterMrs_pc t s, afterMrs_mdcr t s, afterMrs_pending t s, afterMrs_el t s, afterMrs_cfg t s, afterMrs_draws t s,
    fun a => by rw [afterMrs_mem]⟩

/-- Settles O15: `exec_msr`, and what `afterMsr` leaves in each piece of state, by what the source register holds. -/
theorem msrWritesRegisterAtEl3 : Obligations.MsrWritesRegisterAtEl3 := by
  unfold Obligations.MsrWritesRegisterAtEl3
  intro s t hel htop
  refine ⟨_, exec_msr hel htop, ?_, fun w hw => ⟨afterMsr_mdcr_of_known hw, ?_⟩, fun hunknown => ⟨?_, ?_⟩,
    afterMsr_pending t s, readX_congr (afterMsr_x t s), afterMsr_pc t s, afterMsr_el t s, afterMsr_cfg t s,
    fun a => by rw [afterMsr_mem]⟩
  · rintro rfl
    exact afterMsr_mdcr_of_known (readX_zr s)
  · rw [afterMsr_draws, sourceX_known hw]
  · rw [afterMsr_mdcr, sourceX_unknown hunknown, draw_value]
  · rw [afterMsr_draws, sourceX_unknown hunknown, draw_state_draws]

/-- Settles O17: the fetched word is the word of the instruction it decodes to. -/
theorem undefinedFaultRecordsFetchedWord : Obligations.UndefinedFaultRecordsFetchedWord := by
  unfold Obligations.UndefinedFaultRecordsFetchedWord
  intro s i b0 b1 b2 b3 haligned htop hel h0 h1 h2 h3 hdecode
  rw [(State.WordAtPc.of_bytes haligned htop h0 h1 h2 h3).step_of_some hdecode, exec_of_ne_el3 i hel,
    decodeWord_eq_some_iff.mp hdecode]

/-- Settles O19: a position of the mask is a bit of a field that exists, the write makes it known, and a known bit is
read back whatever is drawn. -/
theorem msrThenMrsReadsBack : Obligations.MsrThenMrsReadsBack := by
  unfold Obligations.MsrThenMrsReadsBack
  intro s a b w hel htop htop' hw hb
  refine ⟨_, _, _, exec_msr hel htop, exec_mrs (by simpa using hel) (by simpa using htop'),
    readX_afterMrs_same hb _, ?_⟩
  rintro mask rfl
  rw [afterMsr_mdcr_of_known hw, afterMsr_cfg]
  apply BitVec.eq_of_getLsbD_eq
  intro i hi
  simp only [BitVec.getLsbD_and]
  cases hmask : (fmask s.cfg).getLsbD i with
  | false => simp
  | true =>
    obtain ⟨f, hpresent, k, hk, rfl⟩ := exists_field_of_fmask hmask
    by_cases hreserved : f = .spd32 ∧ w.extractLsb' 14 2 = 0b01#2
    · obtain ⟨rfl, hw01⟩ := hreserved
      have hout : (~~~ 0xC000#64).getLsbD (Field.spd32.lo + k) = false := by
        rw [BitVec.getLsbD_not, show (0xC000#64) = Field.spd32.mask from rfl, Field.getLsbD_mask,
          Field.hasBit_lo_add hk, Bool.not_true, Bool.and_false]
      rw [if_pos hw01, hout]
      simp
    · have hbit := bit_writeValue hk hpresent fun hf hw01 => hreserved ⟨hf, hw01⟩
      rw [getLsbD_readValue_of_bit hk hpresent hbit]

/-- Settles O20: a promised position holds a known bit of a field, which the read shows and the write keeps. -/
theorem saveThenRestoreKeepsKnownFields : Obligations.SaveThenRestoreKeepsKnownFields := by
  unfold Obligations.SaveThenRestoreKeepsKnownFields
  intro s t hel htop htop' ht hwf
  refine ⟨_, _, exec_mrs hel htop, exec_msr (by simpa using hel) (by simpa using htop'), ?_⟩
  rw [afterMsr_mdcr_of_known (readX_afterMrs_same ht s), afterMrs_cfg]
  refine ⟨BitVec.eq_of_getLsbD_eq fun i hi => ?_, BitVec.eq_of_getLsbD_eq fun i hi => ?_⟩
  · rw [BitVec.getLsbD_and]
    cases hknown : (knownMask s.cfg s.mdcr).getLsbD i with
    | false => rw [Bool.and_false, getLsbD_storedValue_of_not_knownMask hi hknown]
    | true =>
      obtain ⟨f, hpresent, k, hk, rfl, b, hbit⟩ := exists_bit_of_knownMask hknown
      rw [Bool.and_true, storedValue, storedValue, getLsbD_readValue_of_bit hk hpresent hbit,
        getLsbD_readValue_of_bit hk hpresent (bit_writeValue_readValue hwf hk hpresent hbit _)]
  · rw [BitVec.getLsbD_and, BitVec.getLsbD_not]
    cases hknown : (knownMask s.cfg s.mdcr).getLsbD i with
    | false => simp
    | true =>
      obtain ⟨f, hpresent, k, hk, rfl, b, hbit⟩ := exists_bit_of_knownMask hknown
      rw [getLsbD_knownMask_lo_add _ _ hk, hpresent, bit_writeValue_readValue hwf hk hpresent hbit]
      simp

/-- Settles O21: the value read is a function of the configuration, the register and the draw. -/
theorem mrsResultDependsOnRegisterAlone : Obligations.MrsResultDependsOnRegisterAlone := by
  unfold Obligations.MrsResultDependsOnRegisterAlone
  intro s s' u u' t hcfg hmdcr hdraws ht h h'
  obtain ⟨-, -, rfl⟩ := exec_mrs_eq_next_iff.mp h
  obtain ⟨-, -, rfl⟩ := exec_mrs_eq_next_iff.mp h'
  rw [readX_afterMrs_same ht, readX_afterMrs_same ht, hcfg, hmdcr, hdraws]

/-- Settles O22: only MRS and MSR complete, and `step_cases` names the level of both. -/
theorem onlyEl3Completes : Obligations.OnlyEl3Completes := by
  unfold Obligations.OnlyEl3Completes
  exact fun _ _ h => (step_cases h).1

/-- Settles O23: an MRS leaves the register alone and every general register but its own, an MSR all of these. -/
theorem onlyItsInstructionChangesRegister : Obligations.OnlyItsInstructionChangesRegister := by
  unfold Obligations.OnlyItsInstructionChangesRegister
  intro s t h
  obtain ⟨-, -, ⟨r, hfetch, rfl⟩ | ⟨r, hfetch, rfl⟩⟩ := step_cases h
  · refine ⟨fun hchanged => absurd (afterMrs_mdcr r s) hchanged, fun r' hchanged => ?_⟩
    have hnot := mt (readX_afterMrs_other (s := s)) hchanged
    simp only [not_or, not_not] at hnot
    obtain ⟨rfl, hne⟩ := hnot
    exact ⟨hfetch, hne⟩
  · exact ⟨fun _ => ⟨r, hfetch⟩, fun r' hchanged => absurd (readX_congr (afterMsr_x r s) r') hchanged⟩

/-- Settles O27: without EL3 the level is below EL3, where every fetched instruction is UNDEFINED. -/
theorem nothingCompletesWithoutEl3 : Obligations.NothingCompletesWithoutEl3 := by
  unfold Obligations.NothingCompletesWithoutEl3
  rintro s ⟨-, -, hexists, -, -, -⟩ hno
  have hel : s.el ≠ .el3 := by
    intro hel3
    simp [hel3, elExists, hno] at hexists
  exact ⟨fun t h => hel (step_cases h).1, fun i hfetch => (step_of_fetch hfetch).trans (exec_of_ne_el3 i hel)⟩

/-- Settles O16: both instructions test the level before anything else. -/
theorem undefinedBelowEl3 : Obligations.UndefinedBelowEl3 := by
  unfold Obligations.UndefinedBelowEl3
  exact fun i _ hel => exec_of_ne_el3 i hel

/-- Settles O18: neither instruction moves the pc before it completes. -/
theorem noWrapAtTop : Obligations.NoWrapAtTop := by
  unfold Obligations.NoWrapAtTop
  exact fun i _ hel htop => exec_of_top i hel htop

end Sys2Proof.Proofs

/-! PROOF. What a reset leaves (70_reset_and_hazards.md R142), what an evaluation reads of an unknown field, and the traps
to EL3 with their outcome (60_exceptions.md R101, R103, R105, R115, R118). -/

namespace Sys2Proof.Machine

/-! The image a reset leaves. -/

/-- The fields with the sentence "this field resets to 0" (10_state.md R44). -/
def Field.resetsToZero : Field → Bool
  | .sccd => true
  | .epmad => true
  | .edad => true
  | .ste => true
  | .spme => true
  | _ => false

theorem FieldVal.resetToZero_of_exists {b : Bool} (h : b = true) : FieldVal.resetToZero b true = .known 0 := by
  rw [h]
  rfl

@[simp] theorem FieldVal.resetToZero_false (b : Bool) : FieldVal.resetToZero b false = .unknown := by
  cases b <;> rfl

/-- A reset with `into64` makes known the fields that reset to 0, one without it no field. -/
theorem isSome_bit_resetImage {cfg : Config} {f : Field} (hpresent : f.present cfg = true) (into64 : Bool) (k : Nat) :
    ((resetImage cfg into64).bit f k).isSome = (into64 && f.resetsToZero) := by
  cases into64 <;> cases f <;>
    simp [Mdcr.bit, resetImage, Field.resetsToZero, FieldVal.resetToZero_of_exists hpresent, FieldVal.isKnown,
      Spd32Val.isKnown]

/-- The mask 0x00B6_0000 has the bits of the fields that reset to 0. -/
theorem getLsbD_resetMask {f : Field} {k : Nat} (hk : k < f.width) :
    (0x00B6_0000#64).getLsbD (f.lo + k) = f.resetsToZero := by
  have hbits (g : Field) : ∀ j < g.width, (0x00B6_0000#64).getLsbD (g.lo + j) = g.resetsToZero := by
    cases g <;> decide
  exact hbits f k hk

/-- What a read promises after a reset. -/
theorem knownMask_resetImage (cfg : Config) (into64 : Bool) :
    knownMask cfg (resetImage cfg into64) = if into64 then fmask cfg &&& 0x00B6_0000 else 0 := by
  apply BitVec.eq_of_getLsbD_eq
  intro i hi
  have hmask : (if into64 then fmask cfg &&& 0x00B6_0000 else 0 : DWord).getLsbD i =
      (into64 && (fmask cfg).getLsbD i && (0x00B6_0000#64).getLsbD i) := by
    cases into64 <;> simp
  rw [hmask]
  cases hfield : (fmask cfg).getLsbD i with
  | false =>
    rw [Bool.and_false, Bool.false_and, Bool.eq_false_iff]
    exact fun hknown => absurd (getLsbD_fmask_of_knownMask hknown) (by simp [hfield])
  | true =>
    obtain ⟨f, hpresent, k, hk, rfl⟩ := exists_field_of_fmask hfield
    rw [getLsbD_knownMask_lo_add cfg _ hk, isSome_bit_resetImage hpresent, getLsbD_resetMask hk, hpresent]
    simp

/-- The image a reset leaves keeps no state in a field that does not exist. -/
theorem resetImage_wf (cfg : Config) (into64 : Bool) : (resetImage cfg into64).wf cfg = true := by
  have hzero (b : Bool) : (FieldVal.resetToZero b into64).wf b = true := by
    cases b <;> simp [FieldVal.wf, FieldVal.resetToZero]
  have hunknown {n : Nat} (b : Bool) : (FieldVal.unknown : FieldVal n).wf b = true := by simp [FieldVal.wf]
  have hspd32 (b : Bool) : Spd32Val.unknown.wf b = true := by simp [Spd32Val.wf]
  simp only [Mdcr.wf, resetImage, hzero, hunknown, hspd32, Bool.and_self]

/-- A legal reset entry is at an aligned address and at a level that exists. -/
theorem resetEntry_of_wf {cfg : Config} (h : cfg.wf = true) :
    cfg.resetPc.toNat % 4 = 0 ∧ elExists cfg cfg.resetEl = true := by
  simp only [Config.wf, Bool.and_eq_true, decide_eq_true_eq] at h
  obtain ⟨⟨hel3, hel2⟩, haligned⟩ := h
  refine ⟨haligned, ?_⟩
  cases hel : cfg.resetEl <;> simp_all [elExists]

theorem resetEvent_inv (k : ResetKind) (into64 : Bool) {s : State} (hcfg : s.cfg.wf = true)
    (hmem : Memory.wf s.mem = true) : (resetEvent k into64 s).Inv := by
  obtain ⟨haligned, hel⟩ := resetEntry_of_wf hcfg
  exact ⟨hcfg, haligned, hel, resetImage_wf _ _, by simp, hmem⟩

theorem resetEvent_eq_reset {k : ResetKind} {s : State} (hcfg : s.cfg = Config.full) (hmem : s.mem = [])
    (hdraws : s.draws = 0) : resetEvent k true s = State.reset := by
  simp only [resetEvent, hcfg, hmem, hdraws]
  rfl

theorem readX_resetEvent {t : RegNum} (h : t ≠ 31#5) (k : ResetKind) (into64 : Bool) (s : State) :
    readX t (resetEvent k into64 s) = .unknown := by
  simp [readX, regNum_lt_of_ne h]

/-! The value an evaluation reads of an unknown field. -/

/-- With EL3 and nothing pending, a rule reads a drawn value where its one-value field is `unknown`. -/
theorem effective_chosen_of_unknown {n : Nat} {s : State} (field : Mdcr → FieldVal n) (hel3 : s.cfg.haveEl3 = true)
    (hpend : s.pending = []) (hfield : field s.mdcr = .unknown) (c : Choice) (sentence : Option (BitVec n))
    (sampled drawn : BitVec n) :
    effective s.cfg sentence ((field (chosenImage c s)).sample sampled) drawn = sampled := by
  rw [effective_of_el3 hel3, chosenImage_of_pending_nil c hpend, hfield, FieldVal.sample]

/-- A rule that follows the drawn bit answers both ways. -/
theorem both_answers_of_iff_drawnBit {p : Choice → Bool}
    (h : ∀ c, c.answer = true → (p c = true ↔ drawnBit c = 1)) : (∃ c, p c = true) ∧ ∃ c, p c = false := by
  refine ⟨⟨⟨0, 0#1 ++ 1#1, true⟩, (h _ rfl).mpr (drawnBit_append ..)⟩, ⟨⟨0, 0#1 ++ 0#1, true⟩, ?_⟩⟩
  rw [Bool.eq_false_iff, ne_eq, h _ rfl, drawnBit_append]
  decide

/-! The rules of R103 and R105 in terms of the field's Effective value. -/

theorem belowEl3_iff_ne (el : EL) : belowEl3 el = true ↔ el ≠ .el3 := by
  cases el <;> decide

theorem trapsNspb_iff (env : Env) (c : Choice) (s : State) (a : Access) :
    trapsNspb env c s a = true ↔
      s.cfg.haveSpe = true ∧ a.reg ∈ s.cfg.speCtrl ∧ (a.el = .el1 ∨ a.el = .el2) ∧
      (effNspb env c s = 0b00 ∨ effNspb env c s = 0b10 ∨ (effNspb env c s = 0b01 ∧ a.secure = false) ∨
        (effNspb env c s = 0b11 ∧ a.secure = true)) := by
  have hrows (v : BitVec 2) (secure : Bool) : (!v.getLsbD 0 || secure != nspbOwnerSecure v) = true ↔
      v = 0b00 ∨ v = 0b10 ∨ (v = 0b01 ∧ secure = false) ∨ (v = 0b11 ∧ secure = true) := by
    revert v secure
    decide
  rw [trapsNspb, Bool.and_eq_true, hrows]
  simp only [Field.present, Bool.and_eq_true, List.contains_iff_mem, atEl1OrEl2_iff, and_assoc]

theorem trapsTda_iff (env : Env) (c : Choice) (s : State) (a : Access) :
    trapsTda env c s a = true ↔
      effTda c s = 1 ∧ tdaCovers c s.cfg a.reg = true ∧ a.el ≠ .el3 ∧ ¬ trappedLower env .tda a = true ∧
      ¬ (env.inDebugState = true ∧ a.reg ∈ dtrRegs) := by
  simp only [trapsTda, Field.present, Bool.and_eq_true, beq_iff_eq, belowEl3_iff_ne, and_assoc,
    Bool.not_eq_true', Bool.not_eq_true, Bool.and_eq_false_iff, true_and, not_and_or, List.contains_eq_mem,
    decide_eq_false_iff_not]

/-- TDA covers the debug registers that TDOSA cannot trap, the two of the double lock left out. -/
theorem tdaCovers_iff {cfg : Config} {r : RegName} (h : r ∉ osdlrRegs) (c : Choice) :
    tdaCovers c cfg r = true ↔ inDebugRegs cfg r = true ∧ r ∉ powerdownRegs cfg := by
  simp [tdaCovers, h, and_comm]

/-- Where TDOSA cannot trap the two registers of the double lock, the choice decides (U9; log 28). -/
theorem tdaCovers_of_osdlr {cfg : Config} {r : RegName} (h : r ∈ osdlrRegs) (hpower : r ∉ powerdownRegs cfg)
    (c : Choice) : tdaCovers c cfg r = c.answer := by
  simp [tdaCovers, h, hpower]

theorem mem_osdlrRegs_iff (r : RegName) : r ∈ osdlrRegs ↔ r = .osdlrEl1 ∨ r = .dbgosdlr := by
  simp only [osdlrRegs, List.mem_cons, List.not_mem_nil, or_false]

theorem mem_dtrRegs_iff (r : RegName) :
    r ∈ dtrRegs ↔ r = .dbgdtrrxInt ∨ r = .dbgdtrtxInt ∨ r = .dbgdtrEl0 ∨ r = .dbgdtrrxEl0 ∨ r = .dbgdtrtxEl0 := by
  simp only [dtrRegs, List.mem_cons, List.not_mem_nil, or_false]

/-- No register of the double lock is one of the Debug state exceptions. -/
theorem not_mem_dtrRegs_of_osdlr {r : RegName} (h : r ∈ osdlrRegs) : r ∉ dtrRegs := by
  obtain rfl | rfl := (mem_osdlrRegs_iff r).mp h <;> decide

/-- An access TDA can trap is trapped exactly where the Effective value is 1. -/
theorem trapsTda_iff_effTda {env : Env} {c : Choice} {s : State} {a : Access}
    (hcovers : tdaCovers c s.cfg a.reg = true) (hel : a.el ≠ .el3) (hlower : trappedLower env .tda a = false)
    (hdebug : env.inDebugState = false ∨ a.reg ∉ dtrRegs) : trapsTda env c s a = true ↔ effTda c s = 1 := by
  rw [trapsTda_iff, hlower]
  refine and_iff_left ⟨hcovers, hel, by simp, ?_⟩
  rintro ⟨hstate, hmem⟩
  exact hdebug.elim (fun h => by simp [h] at hstate) (fun h => h hmem)

/-! Traps and their outcome (R101, R115, R118). -/

theorem mem_trappingControls_iff {env : Env} {choose : Control → Choice} {s : State} {a : Access} {k : Control} :
    k ∈ trappingControls env choose s a ↔ trapsBy env (choose k) s a k = true := by
  rw [trappingControls, List.mem_filter, and_iff_right]
  cases k <;> decide

/-- No control traps an access made at EL3 (R118). -/
theorem not_trapsBy_of_el3 {a : Access} (h : a.el = .el3) (env : Env) (c : Choice) (s : State) (k : Control) :
    ¬ trapsBy env c s a k = true := by
  cases k with
  | ttrf => simp [trapsBy, trapsTtrf_iff, h]
  | nspb => simp [trapsBy, trapsNspb_iff, h]
  | tdosa => simp [trapsBy, trapsTdosa_iff, h]
  | tda => simp [trapsBy, trapsTda_iff, h]
  | tpm => simp [trapsBy, trapsTpm_iff, h]

theorem trappingControls_of_el3 {a : Access} (h : a.el = .el3) (env : Env) (choose : Control → Choice) (s : State) :
    trappingControls env choose s a = [] :=
  List.eq_nil_iff_forall_not_mem.mpr fun _ hk => not_trapsBy_of_el3 h _ _ _ _ (mem_trappingControls_iff.mp hk)

/-- An access ends in a fault exactly where EL3 exists and some control traps it, and the fault reports them all. -/
theorem attemptAccess_eq_fault_iff {env : Env} {choose : Control → Choice} {s : State} {a : Access} {f : Fault} :
    attemptAccess env choose s a = .fault f ↔
      s.cfg.haveEl3 = true ∧ trappingControls env choose s a ≠ [] ∧
      f = .trapToEL3 (trappingControls env choose s a) a := by
  unfold attemptAccess
  split
  next hnone =>
    split
    · simp [hnone]
    · simp only [performAccess]
      split <;> simp [hnone]
  next hsome =>
    split
    next hel3 =>
      rw [raiseTrapToEL3, Host.Outcome.fault.injEq, eq_comm]
      simp [hel3, hsome]
    next hno => simp [hno]

/-- A control the field's rule lists wins over TDOSA, TDA and TPM (R115). -/
theorem not_mem_trappingControls_of_trappedLower {env : Env} {a : Access} {k : Control}
    (hk : k = .tdosa ∨ k = .tda ∨ k = .tpm) (h : trappedLower env k a = true) (choose : Control → Choice) (s : State) :
    k ∉ trappingControls env choose s a := by
  rw [mem_trappingControls_iff]
  obtain rfl | rfl | rfl := hk
  · simp [trapsBy, trapsTdosa_iff, h]
  · simp [trapsBy, trapsTda_iff, h]
  · simp [trapsBy, trapsTpm_iff, h]

end Sys2Proof.Machine

/-! PROOF. What may be relied on after a reset, and what the controls do: the statements of 70_reset_and_hazards.md and
60_exceptions.md, settled. -/

namespace Sys2Proof.Proofs

open Sys2Proof.Machine

/-- Settles O25: the entry of a reset is legal where the configuration is, and `State.reset` is a reset of FULL. -/
theorem resetMeetsInvariant : Obligations.ResetMeetsInvariant := by
  unfold Obligations.ResetMeetsInvariant
  refine ⟨fun k into64 s hcfg hmem => resetEvent_inv k into64 hcfg hmem, ?_⟩
  rw [← resetEvent_eq_reset (k := .warm) (s := State.reset) rfl rfl rfl]
  exact resetEvent_inv .warm true (by decide) reset_mem_wf

/-- Settles O29: a reset with `into64` leaves nothing of the state before but the three fields given. -/
theorem resetStateIsResetOfFull : Obligations.ResetStateIsResetOfFull := by
  unfold Obligations.ResetStateIsResetOfFull
  exact fun _ _ hcfg hmem hdraws => resetEvent_eq_reset hcfg hmem hdraws

/-- Settles O28: the fields one by one, and `knownMask_resetImage` for what a read promises. -/
theorem resetLeavesStatedValues : Obligations.ResetLeavesStatedValues := by
  unfold Obligations.ResetLeavesStatedValues
  intro k s
  refine ⟨rfl, FieldVal.resetToZero_of_exists, FieldVal.resetToZero_of_exists, FieldVal.resetToZero_of_exists,
    FieldVal.resetToZero_of_exists, FieldVal.resetToZero_false _, FieldVal.resetToZero_false _, rfl,
    FieldVal.resetToZero_false _, FieldVal.resetToZero_false _,
    knownMask_resetImage s.cfg true, knownMask_resetImage s.cfg false, fun into64 => ?_⟩
  exact ⟨rfl, rfl, rfl, rfl, rfl, rfl, rfl, rfl, rfl, rfl, fun t ht => readX_resetEvent ht k into64 s, rfl, rfl, rfl⟩

/-- Settles O30: a field that exists reads as 0, and the rule of one that does not has no case. -/
theorem afterAarch64ResetControlsAreOff : Obligations.AfterAarch64ResetControlsAreOff := by
  unfold Obligations.AfterAarch64ResetControlsAreOff
  intro k s env c hel3
  have hzero (field : Mdcr → FieldVal 1) (hfield : field (resetImage s.cfg true) = .known 0)
      (sentence : Option (BitVec 1)) (sampled drawn : BitVec 1) :
      effective s.cfg sentence ((field (chosenImage c (resetEvent k true s))).sample sampled) drawn = 0 :=
    effective_chosen_of_known (s := resetEvent k true s) field hel3 rfl hfield ..
  refine ⟨fun n => ?_, fun x => ?_, fun x => ?_, fun htrace => ?_, fun hpmu => ?_⟩
  · cases n with
    | otherCycleEvent => rfl
    | pmccntrEl0 =>
      cases hpresent : Field.sccd.present s.cfg with
      | false => simp [prohibitedBySccd, hpresent]
      | true =>
        have heff : effSccd c (resetEvent k true s) = 0 :=
          hzero Mdcr.sccd (FieldVal.resetToZero_of_exists hpresent) ..
        simp [prohibitedBySccd, heff]
  · cases hpresent : Field.epmad.present s.cfg with
    | false => simp [extPmuAccessDisabled, hpresent]
    | true =>
      have heff : effEpmad env c (resetEvent k true s) = 0 :=
        hzero Mdcr.epmad (FieldVal.resetToZero_of_exists hpresent) ..
      simp [extPmuAccessDisabled, heff]
  · have heff : effEdad env c (resetEvent k true s) = 0 := hzero Mdcr.edad rfl ..
    simp [extDbgAccessDisabled, heff]
  · have heff : effSte env c (resetEvent k true s) = 0 :=
      hzero Mdcr.ste (FieldVal.resetToZero_of_exists htrace) ..
    simp [traceAllowedInSecure, Field.present, htrace, heff]
  · have heff : effSpme env c (resetEvent k true s) = 0 :=
      hzero Mdcr.spme (FieldVal.resetToZero_of_exists hpmu) ..
    cases hdebug : s.cfg.haveDebugv8p2 <;> simp [eventCountingAllowedInSecure, hpmu, hdebug, heff]

/-- Settles O31: each of the five fields is unknown after a reset, so its rule follows the drawn value where nothing
else keeps it from trapping. -/
theorem afterResetTrapsAreOpen : Obligations.AfterResetTrapsAreOpen := by
  unfold Obligations.AfterResetTrapsAreOpen
  intro k into64 s env a hel3
  have hdrawn {n : Nat} (field : Mdcr → FieldVal n) (hfield : field (resetImage s.cfg into64) = .unknown) (c : Choice)
      (sentence : Option (BitVec n)) (sampled drawn : BitVec n) :
      effective s.cfg sentence ((field (chosenImage c (resetEvent k into64 s))).sample sampled) drawn = sampled :=
    effective_chosen_of_unknown (s := resetEvent k into64 s) field hel3 rfl hfield ..
  refine ⟨fun htrace hreg hel => ?_, fun hspe hreg hel => ?_, fun hreg hel hlower => ?_,
    fun hreg hpower hel hlower hdebug => ?_, fun hpmu hreg hel hlower => ?_⟩
  · refine both_answers_of_iff_drawnBit fun c _ => ?_
    have heff : effTtrf c (resetEvent k into64 s) = drawnBit c := hdrawn Mdcr.ttrf rfl ..
    simp [trapsTtrf_iff, heff, htrace, hreg, hel]
  · have heff (c : Choice) : effNspb env c (resetEvent k into64 s) = c.bits := hdrawn Mdcr.nspb rfl ..
    refine ⟨⟨⟨0, 0b00, true⟩, ?_⟩, ⟨⟨0, if a.secure then 0b01 else 0b11, true⟩, ?_⟩⟩
    · simp [trapsNspb_iff, heff, hspe, hreg, hel]
    · rw [Bool.eq_false_iff, ne_eq, trapsNspb_iff, heff]
      cases a.secure <;> simp
  · refine both_answers_of_iff_drawnBit fun c _ => ?_
    have heff : effTdosa c (resetEvent k into64 s) = drawnBit c := hdrawn Mdcr.tdosa rfl ..
    simp [trapsTdosa_iff, heff, hreg, hel, hlower]
  · refine both_answers_of_iff_drawnBit fun c hanswer => ?_
    have heff : effTda c (resetEvent k into64 s) = drawnBit c := hdrawn Mdcr.tda rfl ..
    have hcovers : tdaCovers c s.cfg a.reg = true := by
      by_cases hosdlr : a.reg ∈ osdlrRegs
      · rw [tdaCovers_of_osdlr hosdlr hpower, hanswer]
      · exact (tdaCovers_iff hosdlr c).mpr ⟨hreg.resolve_right hosdlr, hpower⟩
    rw [← heff]
    exact trapsTda_iff_effTda hcovers hel hlower hdebug
  · refine both_answers_of_iff_drawnBit fun c _ => ?_
    have heff : effTpm c (resetEvent k into64 s) = drawnBit c := hdrawn Mdcr.tpm rfl ..
    have hbelow := (belowEl3_iff _).mp ((belowEl3_iff_ne _).mpr hel)
    simp [trapsTpm_iff, heff, hpmu, hreg, hbelow, hlower]

/-- Settles O32: a sentence where one applies, a drawn value where none does. -/
theorem effectiveValuesWithoutEl3 : Obligations.EffectiveValuesWithoutEl3 := by
  unfold Obligations.EffectiveValuesWithoutEl3
  intro env s hno
  refine ⟨fun hel2 hns c => ?_, fun hsecure c => ?_, fun hnonsecure c => ?_, fun b => ?_, fun hout b => ?_⟩
  · have hsentence : noEl2AndSecure env s.cfg = true := by simp [noEl2AndSecure, hel2, hns]
    simp [effEpmad, effEdad, effSpd32, hsentence, effective_of_sentence hno]
  · simp [effSte, effSpme, effNspb, hsecure, effective_of_sentence hno]
  · simp [effNspb, hnonsecure, effective_of_sentence hno]
  · have hdrawn : drawnBit ⟨0, 0#1 ++ b, false⟩ = b := drawnBit_append ..
    refine ⟨⟨0, 0#1 ++ b, false⟩, ?_, ?_, ?_, ?_, ?_, ?_⟩ <;> exact (effective_of_none hno ..).trans hdrawn
  · have hsentence : noEl2AndSecure env s.cfg = false := by
      obtain hel2 | hns := hout
      · simp [noEl2AndSecure, hel2]
      · simp [noEl2AndSecure, hns]
    refine ⟨⟨0, b, false⟩, ?_, ?_, ?_⟩
    · simp [effSpd32, hsentence, effective_of_none hno]
    · simp [effEpmad, hsentence, effective_of_none hno, drawnBit]
    · simp [effEdad, hsentence, effective_of_none hno, drawnBit]

/-- Settles O33: an evaluation uses its chosen image, which is one of these, and each of these can be chosen. -/
theorem behaviourUsesImagesSinceSync : Obligations.BehaviourUsesImagesSinceSync := by
  unfold Obligations.BehaviourUsesImagesSinceSync
  intro env s hel3
  have hstored {n : Nat} (sentence : Option (BitVec n)) (stored drawn : BitVec n) :
      effective s.cfg sentence stored drawn = stored := effective_of_el3 hel3 sentence stored drawn
  refine ⟨fun c => ⟨chosenImage c s, List.mem_cons.mpr (chosenImage_mem c s), ?_⟩, fun m hm d r => ?_⟩
  · exact ⟨hstored .., hstored .., hstored .., hstored .., hstored .., hstored .., hstored .., hstored .., hstored ..,
      hstored .., hstored .., hstored ..⟩
  · obtain ⟨n, hchosen⟩ := exists_choice_of_mem (List.mem_cons.mp hm) d r
    refine ⟨n, ?_⟩
    rw [← hchosen]
    exact ⟨hstored .., hstored .., hstored .., hstored .., hstored ..⟩

/-- Settles O34: after the event the image written is the only one, and its fields are the bits of the operand. -/
theorem msrThenSyncSettlesEveryControl : Obligations.MsrThenSyncSettlesEveryControl := by
  unfold Obligations.MsrThenSyncSettlesEveryControl
  intro s u t w env c hel3 hw hexec
  obtain ⟨-, -, rfl⟩ := exec_msr_eq_next_iff.mp hexec
  have hcfg : (contextSync (afterMsr t s)).cfg.haveEl3 = true := by simpa using hel3
  have hmdcr : (contextSync (afterMsr t s)).mdcr = writeValue s.cfg w := afterMsr_mdcr_of_known hw
  have hsettled {n : Nat} (field : Mdcr → FieldVal n) {b : Bool} (v : BitVec n) (hb : b = true)
      (hfield : field (writeValue s.cfg w) = .written b v) (sentence : Option (BitVec n)) (sampled drawn : BitVec n) :
      effective (contextSync (afterMsr t s)).cfg sentence
        ((field (chosenImage c (contextSync (afterMsr t s)))).sample sampled) drawn = v :=
    effective_chosen_of_known field hcfg rfl (by rw [hmdcr, hfield, FieldVal.written_of_exists v hb]) ..
  refine ⟨fun hp => hsettled Mdcr.sccd _ hp rfl .., fun hp => hsettled Mdcr.epmad _ hp rfl ..,
    hsettled Mdcr.edad _ rfl rfl .., fun hp => hsettled Mdcr.ttrf _ hp rfl .., fun hp => hsettled Mdcr.ste _ hp rfl ..,
    fun hp => hsettled Mdcr.spme _ hp rfl .., hsettled Mdcr.sdd _ rfl rfl .., fun hp => ?_,
    fun hp => hsettled Mdcr.nspb _ hp rfl .., hsettled Mdcr.tdosa _ rfl rfl .., hsettled Mdcr.tda _ rfl rfl ..,
    fun hp => hsettled Mdcr.tpm _ hp rfl ..⟩
  rw [effSpd32_of_settled hcfg rfl, hmdcr]
  split
  next hreserved => simp [writeValue, Spd32Val.written_of_reserved hp hreserved, Spd32Val.behaves]
  next hne => simp [writeValue, Spd32Val.written_of_ne_reserved hp hne, Spd32Val.behaves]

/-- Settles O35: before the event the choice may fall on the image written, where TDA is 1, or on the one replaced,
where it is 0. -/
theorem oldOrNewTrapUntilSync : Obligations.OldOrNewTrapUntilSync := by
  unfold Obligations.OldOrNewTrapUntilSync
  intro s u t w env a hel3 hw hone hzero hexec hdebug hosdlr hpower hel hlower hstate
  obtain ⟨-, -, rfl⟩ := exec_msr_eq_next_iff.mp hexec
  have hcovers (c : Choice) : tdaCovers c s.cfg a.reg = true := (tdaCovers_iff hosdlr c).mpr ⟨hdebug, hpower⟩
  have htraps (v : State) (hcfg : v.cfg = s.cfg) (c : Choice) :
      trapsTda env c v a = true ↔ (chosenImage c v).tda.sample (drawnBit c) = 1 := by
    have heff : effTda c v = (chosenImage c v).tda.sample (drawnBit c) := effective_of_el3 (hcfg ▸ hel3) ..
    rw [← heff]
    exact trapsTda_iff_effTda (hcfg ▸ hcovers c) hel hlower (.inl hstate)
  have hnew (d : BitVec 1) : (afterMsr t s).mdcr.tda.sample d = 1 := by
    rw [afterMsr_mdcr_of_known hw, ← hone]
    rfl
  have hcfg := afterMsr_cfg t s
  refine ⟨⟨⟨0, 0, false⟩, (htraps _ hcfg _).mpr (hnew _)⟩, ?_, fun c => (htraps (contextSync _) hcfg c).mpr ?_⟩
  · obtain ⟨n, hchosen⟩ := exists_choice_of_mem (s := afterMsr t s) (m := s.mdcr) (.inr (by simp)) 0 false
    refine ⟨⟨n, 0, false⟩, Bool.eq_false_iff.mpr fun htrap => ?_⟩
    have hold := (htraps _ hcfg _).mp htrap
    rw [hchosen, hzero, FieldVal.sample] at hold
    exact absurd hold (by decide)
  · rw [chosenImage_of_pending_nil c rfl]
    exact hnew _

/-- Settles O37: NSPB[1] names the owner, and `trapsNspb_iff` has the four rows of the traps. -/
theorem nspbSelectsProfilingOwner : Obligations.NspbSelectsProfilingOwner := by
  unfold Obligations.NspbSelectsProfilingOwner
  intro s env c v hel3 hpend hspe hfield
  have heff : effNspb env c s = v := effective_chosen_of_known Mdcr.nspb hel3 hpend hfield ..
  have howner : profilingOwnerSecure env c s = some (nspbOwnerSecure v) := by
    simp [profilingOwnerSecure, Field.present, hspe, heff]
  refine ⟨?_, ?_, fun a => by rw [trapsNspb_iff, heff, and_iff_right hspe]⟩
  · rintro (rfl | rfl) <;> simp [bufferAddressSpace, profilingEnabled, howner, nspbOwnerSecure]
  · rintro (rfl | rfl) <;> simp [bufferAddressSpace, profilingEnabled, howner, nspbOwnerSecure]

/-- Settles O39: `trapsTda_iff` at the value the field holds, with the sets written out; for the two registers of the
double lock the choice decides. -/
theorem tdaTrapsDebugRegisters : Obligations.TdaTrapsDebugRegisters := by
  unfold Obligations.TdaTrapsDebugRegisters
  intro s env a v hel3 hpend hfield
  have heff (c : Choice) : effTda c s = v := effective_chosen_of_known Mdcr.tda hel3 hpend hfield ..
  refine ⟨fun hne hne' c => ?_, fun hreg hpower hone hel hlower => ?_⟩
  · have hosdlr : a.reg ∉ osdlrRegs := by
      rw [mem_osdlrRegs_iff]
      tauto
    rw [trapsTda_iff, heff, tdaCovers_iff hosdlr, trappedLower_iff, mem_dtrRegs_iff]
    simp [lowerControls, and_assoc]
  · have hosdlr := (mem_osdlrRegs_iff _).mpr hreg
    have htraps (c : Choice) : trapsTda env c s a = true ↔ c.answer = true := by
      have hdtr := not_mem_dtrRegs_of_osdlr hosdlr
      simp [trapsTda_iff, heff, hone, tdaCovers_of_osdlr hosdlr hpower, hel, hlower, hdtr]
    exact ⟨⟨⟨0, 0, true⟩, (htraps _).mpr rfl⟩,
      ⟨⟨0, 0, false⟩, Bool.eq_false_iff.mpr fun h => Bool.false_ne_true ((htraps _).mp h)⟩⟩

/-- Settles O41: every rule asks for a level below EL3, and only a trap ends in a fault. -/
theorem noTrapAtEl3 : Obligations.NoTrapAtEl3 := by
  unfold Obligations.NoTrapAtEl3
  intro env choose s a hel
  have hnone := trappingControls_of_el3 hel env choose s
  refine ⟨hnone, fun f hfault => ?_⟩
  obtain ⟨-, hsome, -⟩ := attemptAccess_eq_fault_iff.mp hfault
  exact hsome hnone

/-- Settles O42: the fault reports the controls that trap, a listed control excludes TDOSA, TDA and TPM, and the rules
of TTRF and NSPB read no list. -/
theorem trapReportsControlsThatTrap : Obligations.TrapReportsControlsThatTrap := by
  unfold Obligations.TrapReportsControlsThatTrap
  intro env choose s a
  have hlower (k : Control) (hk : k = .tdosa ∨ k = .tda ∨ k = .tpm)
      (h : ∃ l ∈ lowerControls k, (l, a) ∈ env.lowerTraps) : k ∉ trappingControls env choose s a :=
    not_mem_trappingControls_of_trappedLower hk ((trappedLower_iff ..).mpr h) choose s
  refine ⟨fun ks b => ?_, fun k => mem_trappingControls_iff, fun h => hlower .tdosa (by simp) ?_,
    fun h => hlower .tda (by simp) ?_, fun h => hlower .tpm (by simp) ?_, fun l => ⟨?_, ?_⟩⟩
  · rw [attemptAccess_eq_fault_iff, Fault.trapToEL3.injEq]
    constructor
    · rintro ⟨hel3, hsome, rfl, rfl⟩
      exact ⟨hel3, rfl, hsome, rfl⟩
    · rintro ⟨hel3, rfl, hsome, rfl⟩
      exact ⟨hel3, hsome, rfl, rfl⟩
  · simpa [lowerControls] using h
  · simpa [lowerControls] using h
  · simpa [lowerControls] using h
  · rw [mem_trappingControls_iff, mem_trappingControls_iff]
    rfl
  · rw [mem_trappingControls_iff, mem_trappingControls_iff]
    rfl

/-- Settles O47: EPMAD at the value it holds, in each of the two alternatives of R111. -/
theorem epmadDisablesExternalMonitors : Obligations.EpmadDisablesExternalMonitors := by
  unfold Obligations.EpmadDisablesExternalMonitors
  intro s env c x v hel3 hpend hpmu hextdebug hfield hreg
  have heff : effEpmad env c s = v := effective_chosen_of_known Mdcr.epmad hel3 hpend hfield ..
  refine ⟨fun hdebug => ?_, fun hdebug => ?_⟩
  · simp [extPmuAccessDisabled, Field.present, hpmu, hextdebug, hreg, heff, hdebug]
  · simp [extPmuAccessDisabled, Field.present, hpmu, hextdebug, hreg, heff, hdebug]

/-- Settles O48: the three alternatives of R112, in order. -/
theorem edadDisablesExternalBreakpoints : Obligations.EdadDisablesExternalBreakpoints := by
  unfold Obligations.EdadDisablesExternalBreakpoints
  intro s env c x v hel3 hpend hfield
  have heff : effEdad env c s = v := effective_chosen_of_known Mdcr.edad hel3 hpend hfield ..
  refine ⟨fun h84 => ?_, fun h84 h82 => ?_, fun h84 h82 => ?_⟩
  · simp [extDbgAccessDisabled, heff, h84]
  · simp [extDbgAccessDisabled, heff, h84, h82]
  · simp [extDbgAccessDisabled, heff, h84, h82]

/-- Settles O50: the two alternatives of R114, in order. -/
theorem spmeControlsSecureEventCounting : Obligations.SpmeControlsSecureEventCounting := by
  unfold Obligations.SpmeControlsSecureEventCounting
  intro s env c v hel3 hpend hpmu hfield
  have heff : effSpme env c s = v := effective_chosen_of_known Mdcr.spme hel3 hpend hfield ..
  refine ⟨fun hone => ?_, fun hzero h82 => ?_, fun hzero h82 => ?_⟩
  · simp [eventCountingAllowedInSecure, hpmu, heff, hone]
  · simp [eventCountingAllowedInSecure, hpmu, heff, hzero, h82]
  · simp [eventCountingAllowedInSecure, hpmu, heff, hzero, h82]

end Sys2Proof.Proofs
